-- ==== Sys2Proof/Word.lean ====
section
/-!
DEFINITION. The two word types of the pixel buffer unit (PBU): a byte is 8 bits, a word is 16 bits
(spec/00_scope.md R9).
-/

namespace Sys2Proof

/-- A byte: one canvas, shadow or source byte, or one byte on the display bus (R9). -/
abbrev Byte := BitVec 8

/-- A word: one host-interface register (R9, R31). -/
abbrev Word := BitVec 16

end Sys2Proof
end

