-- ==== Sys2Proof/Config.lean ====
section
/-!
DEFINITION. What one PBU fixes for its whole life (spec/00_scope.md R7), and the model's one free value.

The fixed figures of R7 (128 × 64 pixels, 8 pages, 1024 bytes, 16 payload bytes a packet) are constants of the
hardware (R3) and stand as numerals in the operations, as they do in the spec's pseudocode.
-/

namespace Sys2Proof

/-- The open parameters of R7 that are fixed per PBU. No step changes them (10_state.md R30). The source memory's
contents `SRC` change between commands and are not here (log 8). -/
structure Config where
  /-- `DOUBLE_BUFFER`: a shadow canvas exists, and SYNC sends only what changed. -/
  doubleBuffer : Bool
  /-- `SRC_SIZE`: the number of bytes of the source memory. -/
  srcSize : Nat
  /-- `DISPLAY_ADDR`: the address given to `beginTransaction`. R7 gives it no width (log 18). -/
  displayAddr : Nat
  /-- `DATA_MODE_MARKER`: the byte that opens every payload packet. -/
  dataModeMarker : Byte
  /-- `CMD_MODE_MARKER`: the control byte before each display register byte. -/
  cmdModeMarker : Byte
  /-- `COLADDR_CMD`: the display's column-address register command byte. -/
  colAddrCmd : Byte
  /-- `PAGEADDR_CMD`: the display's page-address register command byte. -/
  pageAddrCmd : Byte
deriving DecidableEq, Repr

/-- The configuration of `State.reset`. PRESUMED for the five bus constants (the general-knowledge defaults G1 to G5
of 93_implementation_defined.md); DESIGN CHOICE for DOUBLE_BUFFER and SRC_SIZE, which R7 leaves open (log 6).
Unsafe: no statement rests on these values, every one holds for each configuration. -/
def Config.default : Config where
  doubleBuffer := true
  srcSize := 2 ^ 32
  displayAddr := 0x3C
  dataModeMarker := 0x40
  cmdModeMarker := 0x80
  colAddrCmd := 0x21
  pageAddrCmd := 0x22

/-- `InitOutcome` (R7, decision D8): whether the n-th INIT that the environment gives no outcome for succeeds.
A FREE VALUE: it has no body, so nothing can be proved of it (log 7). -/
opaque Config.initOutcome : Nat → Bool

end Sys2Proof
end

