-- ==== Sys2Proof/Syntax.lean ====
section
/-!
DEFINITION. What the host can say to the PBU: the eleven commands, the three draw colours, the sixteen registers,
and the statements of the spec's assembly language.
-/

namespace Sys2Proof

/-- The commands, one for each row of spec/opcode_table.json (30_encoding.md R92). A command word holds no operand
field (R90, R91): the operands are in ARG0 to ARG7. -/
inductive Instr where
  | nop | init | clear | setpixel | hline | vline | rect | fillrect | blit | blitrow | sync
deriving DecidableEq, Repr

/-- The draw colours (00_scope.md R13). Their numeric codes are `Color.code` (10_state.md R35). -/
inductive Color where
  | set | clear | invert
deriving DecidableEq, Repr

/-- The host-interface registers (10_state.md R31): sixteen word offsets. -/
inductive Reg where
  | cmd | status | color | cause | bboxCol | bboxPage | reserved6 | reserved7
  | arg (n : Fin 8)
deriving DecidableEq, Repr

/-- One statement of the assembly language (30_encoding.md R99) or one pseudo-instruction (R101). Every operand is
the number as it is written in the source line, before it is stored as 16 bits. -/
inductive Stmt where
  | wr (r : Reg) (v : Int)
  | rd (r : Reg)
  | nop
  | init
  | clear
  | setpixel (x y : Int)
  | hline (x y len : Int)
  | vline (x y len : Int)
  | rect (x y w h : Int)
  | fillrect (x y w h : Int)
  | blit (x y w h src byteOffset byteCount : Int)
  | blitrow (x y w h src : Int)
  | sync
  | setcolor (c : Color)
  | blitraw (x y w h src : Int)
  | glyph (x y w h font off size : Int)
  | waitidle
deriving DecidableEq, Repr

end Sys2Proof
end

