-- ==== Sys2Proof/Machine/State.lean ====
section
/-!
DEFINITION. The state of one PBU (spec/10_state.md R30) beside its configuration and its surroundings, as plain data,
and the state after reset (R48).
-/

namespace Sys2Proof.Machine

/-- A byte store: (address, byte) pairs, addresses strictly rising, no byte equal to `unlistedByte` (`Memory.wf`). -/
abbrev Memory := List Host.Cell

/-- What an address that is not listed reads as. DESIGN CHOICE, unsafe (log 3, log 8): the spec gives the canvas no
value before INIT, where no rule reads it (R40, R48), and 0x00 after it (R112). -/
def unlistedByte : Byte := 0x00

/-- `SYNC_STATE` (R34, R44). The code 3 is never held. -/
inductive SyncState where
  | idle | scanning | transmitting
deriving DecidableEq, Repr

/-- What `CAUSE` records (60_exceptions.md R201). Codes 0x06 to 0xFF are never recorded. -/
inductive Cause where
  | none | notReady | illegalOpcode | illegalColor | busyViolation | sourceRange
deriving DecidableEq, Repr

/-- The bounding box last sent by SYNC, four 8-bit numbers (R37). -/
structure BBox where
  minCol : Byte
  maxCol : Byte
  minPage : Byte
  maxPage : Byte
deriving DecidableEq, Repr

/-- The latched operands `L` of the command in progress (R42). -/
structure Latched where
  arg : Vector Word 8
  color : Color
deriving DecidableEq, Repr

/-- Which step of a SYNC comes next (R43). -/
inductive Phase where
  | scan | setup | tx
deriving DecidableEq, Repr

/-- The sync sequencer `SEQ` (R43). Its numbers are integers in R43 and are never negative. -/
structure Seq where
  phase : Phase
  scanPage : Nat
  found : Bool
  minCol : Nat
  maxCol : Nat
  minPage : Nat
  maxPage : Nat
  txPage : Nat
deriving DecidableEq, Repr

/-- One event on the display bus (20_memory.md R64). -/
inductive BusEvent where
  | begin (addr : Nat)
  | write (b : Byte)
  | finish
deriving DecidableEq, Repr

/-- What the host does in one of its steps (60_exceptions.md R215), and the other things the outside can do. -/
inductive HostMove where
  /-- one register write `wr off, v` (40_control.md R111) -/
  | write (off : BitVec 4) (v : Word)
  /-- one register read `rd off` (40_control.md R110) -/
  | read (off : BitVec 4)
  /-- one debug-port read of a canvas byte (60_exceptions.md R214) -/
  | debugCanvas (i : Fin 1024)
  /-- one debug-port read of a shadow byte (60_exceptions.md R214) -/
  | debugShadow (i : Fin 1024)
  /-- the pseudo-instruction `waitidle`, a poll loop on STATUS.BUSY (30_encoding.md R101, log 11) -/
  | waitIdle
  /-- the host puts a byte into the source memory it owns (20_memory.md R63, log 8) -/
  | storeSource (a : Nat) (b : Byte)
  /-- an assertion of the reset input (70_reset_and_hazards.md R230). DESIGN CHOICE, unsafe (log 20): R230 does not say
  where an assertion may fall; here it is a turn of its own, so it falls between whole steps and never inside one. -/
  | reset
deriving DecidableEq, Repr

/-- Which agent takes the next step (60_exceptions.md R215). -/
inductive Turn where
  | unit
  | host (m : HostMove)
deriving DecidableEq, Repr

/-- What a host read returned (40_control.md R110, 60_exceptions.md R214). -/
inductive Reply where
  | register (off : BitVec 4) (v : Word)
  | canvasByte (i : Fin 1024) (b : Byte)
  | shadowByte (i : Fin 1024) (b : Byte)
deriving DecidableEq, Repr

/-- The model's faults: an access to an address the spec says does not exist. The PBU's own faults are latched and
the machine goes on (60_exceptions.md R203), so no command raises one of these. -/
inductive Fault where
  /-- Raised by a debug-port read of `S` when DOUBLE_BUFFER is false: `S` is absent (10_state.md R41, R214). Safe. -/
  | shadowAbsent
  /-- Raised by a host store to a source address at or above SRC_SIZE (20_memory.md R63). Safe. -/
  | sourceAddressAbsent
deriving DecidableEq, Repr

/-- The model's refusals: moves the spec says the model has no transition for. -/
inductive Refusal where
  /-- Raised by `exec` for an instruction that has no meaning yet; none is left. Safe. -/
  | notModelled (mnemonic : String)
  /-- Raised by a debug-port read while READY = 0: "the model refuses it" (60_exceptions.md R214). Safe. -/
  | debugReadNotReady
  /-- Raised by a host store to the source memory while a BLIT or BLITROW is in progress: the model has no such step
  (70_reset_and_hazards.md R234, 93_implementation_defined.md U9). Safe. -/
  | sourceInUse
deriving DecidableEq, Repr

/-- The state. The first part is the tuple of R30; `current`, which command is in progress, is implied by R39 and
R202 (log 2). `cfg` is the configuration (log 6). The rest is the PBU's surroundings: the source memory (log 8), the
bus trace (log 9), and the model's own fields for the schedule (log 1), for what host reads returned (log 10) and for
the draws of InitOutcome (log 7). -/
structure State where
  /-- `C` (R40) -/
  canvas : Memory
  /-- `S`, present only with DOUBLE_BUFFER (R41) -/
  shadow : Memory
  /-- `ARG0` to `ARG7` (R32) -/
  arg : Vector Word 8
  /-- `COLOR` (R35) -/
  color : Color
  /-- `READY` (R34) -/
  ready : Bool
  /-- `INIT_FAIL` (R34) -/
  initFail : Bool
  /-- `BUSY` (R34) -/
  busy : Bool
  /-- `FAULT` (R34) -/
  fault : Bool
  /-- `CAUSE` (R36) -/
  cause : Cause
  /-- `SYNC_STATE` (R34, R44) -/
  syncState : SyncState
  /-- `BBOX_VALID` (R34) -/
  bboxValid : Bool
  /-- `BBOX_COL` and `BBOX_PAGE` (R37) -/
  bbox : BBox
  /-- `L` (R42) -/
  latched : Latched
  /-- the command in progress (R39, R202) -/
  current : Instr
  /-- `SEQ` (R43) -/
  seq : Seq
  /-- the configuration (R7, R30) -/
  cfg : Config
  /-- `SRC` (20_memory.md R63) -/
  src : Memory
  /-- the bus trace, oldest event first (20_memory.md R64) -/
  bus : List BusEvent
  /-- the coming turns, the next one first -/
  turns : List Turn
  /-- what host reads returned, oldest first -/
  replies : List Reply
  /-- the environment's coming draws of InitOutcome, the next one first; true is `ok` -/
  initOutcomes : List Bool
  /-- how many draws of InitOutcome were made -/
  initDraws : Nat
deriving DecidableEq, Repr

/-- The state right after reset of a PBU with configuration `c` (R48, 70_reset_and_hazards.md R231): every register
at the value R48 gives; nothing listed in the memories (log 3, log 8); no command in progress, so that `latched`,
`current` and `seq` hold values nothing reads (log 5); and nothing yet in the surroundings. -/
def State.resetWith (c : Config) : State where
  canvas := []
  shadow := []
  arg := Vector.replicate 8 0x0000
  color := .set
  ready := false
  initFail := false
  busy := false
  fault := false
  cause := .none
  syncState := .idle
  bboxValid := false
  bbox := ⟨0x00, 0x00, 0x00, 0x00⟩
  latched := ⟨Vector.replicate 8 0x0000, .set⟩
  current := .nop
  seq := ⟨.scan, 0, false, 0, 0, 0, 0, 0⟩
  cfg := c
  src := []
  bus := []
  turns := []
  replies := []
  initOutcomes := []
  initDraws := 0

/-- The state right after reset, of the configuration `Config.default` (log 6). -/
def State.reset : State := State.resetWith Config.default

end Sys2Proof.Machine
end

