-- ==== Sys2Proof/Machine/Flags.lean ====
section
/-!
DEFINITION. The numeric codes of the register fields and the words the host reads (10_state.md R34 to R37,
60_exceptions.md R201). The PBU has no arithmetic flags (R45).
-/

namespace Sys2Proof.Machine

/-- The colour codes: CLEAR 0, SET 1, INVERT 2 (R35). -/
def colorCode : Color → BitVec 2
  | .clear => 0
  | .set => 1
  | .invert => 2

/-- The colour of a code; 3 is illegal (R35, 40_control.md R114). -/
def colorOfCode (c : BitVec 2) : Option Color :=
  match c.toNat with
  | 0 => some .clear
  | 1 => some .set
  | 2 => some .invert
  | _ => none

/-- The fault codes (60_exceptions.md R201). -/
def causeCode : Cause → Byte
  | .none => 0x00
  | .notReady => 0x01
  | .illegalOpcode => 0x02
  | .illegalColor => 0x03
  | .busyViolation => 0x04
  | .sourceRange => 0x05

/-- The codes of SYNC_STATE (R34). -/
def syncStateCode : SyncState → BitVec 2
  | .idle => 0
  | .scanning => 1
  | .transmitting => 2

/-- `STATUS`: 0x00 ++ (BBOX_VALID, DBUF, INIT_FAIL, FAULT, SYNC_STATE[1:0], BUSY, READY) (R34, 40_control.md R110). -/
def statusWord (s : State) : Word :=
  (0x00#8 ++ BitVec.ofBool s.bboxValid ++ BitVec.ofBool s.cfg.doubleBuffer ++ BitVec.ofBool s.initFail
    ++ BitVec.ofBool s.fault ++ syncStateCode s.syncState ++ BitVec.ofBool s.busy ++ BitVec.ofBool s.ready : BitVec 16)

/-- `COLOR` as it reads: the code in bits 1:0, the rest 0 (R35). -/
def colorWord (s : State) : Word := (colorCode s.color).setWidth 16

/-- `CAUSE` as it reads: the code in bits 7:0, the rest 0 (R36). -/
def causeWord (s : State) : Word := (causeCode s.cause).setWidth 16

/-- `BBOX_COL`: maxCol ++ minCol (R37). -/
def bboxColWord (s : State) : Word := (s.bbox.maxCol ++ s.bbox.minCol : BitVec 16)

/-- `BBOX_PAGE`: maxPage ++ minPage (R37). -/
def bboxPageWord (s : State) : Word := (s.bbox.maxPage ++ s.bbox.minPage : BitVec 16)

end Sys2Proof.Machine
end

