-- ==== Sys2Proof/Machine/Operands.lean ====
section
/-!
DEFINITION. How a command reads its operands (30_encoding.md R93, R94), the integer notation of 00_scope.md R10, and
the places of pixels (20_memory.md R61, R67).
-/

namespace Sys2Proof.Machine

/-- `sext16` (R10): a word read as two's complement. -/
def sext16 (w : Word) : Int := w.toInt

/-- `zext16` (R10): a word read as unsigned. -/
def zext16 (w : Word) : Int := (w.toNat : Int)

/-- `ceil8` (R10). On the integers `/` and `%` by a positive number are floor division and the non-negative
remainder of R10. -/
def ceil8 (h : Int) : Int := (h + 7) / 8

/-- An s16 operand slot of R93, read from the latched operands only (R42). -/
def Latched.s16 (l : Latched) (n : Fin 8) : Int := sext16 (l.arg.get n)

/-- A u16 operand slot of R93, read from the latched operands only (R42). -/
def Latched.u16 (l : Latched) (n : Fin 8) : Int := zext16 (l.arg.get n)

/-- The source base address: ARG5 is the high half and ARG4 the low half (R94, 20_memory.md R68). -/
def Latched.srcBase (l : Latched) : Int := l.u16 5 * 65536 + l.u16 4

/-- `for i in a..b` (00_scope.md R12): the indices in increasing order; none when b < a. -/
def intRange (a b : Int) : List Int := (List.range (b - a + 1).toNat).map (fun (k : Nat) => a + (k : Int))

/-- `InCanvas` (20_memory.md R67). -/
def inCanvas (x y : Int) : Bool := decide (0 ≤ x) && decide (x < 128) && decide (0 ≤ y) && decide (y < 64)

/-- `PixIndex` (20_memory.md R61). -/
def pixIndex (x y : Int) : Int := x + y / 8 * 128

/-- The one-bit mask of a pixel row in its byte: 1 << (y mod 8) (20_memory.md R61, 41_pixel_buffer.md R122). -/
def rowBit (y : Int) : Byte := 0x01#8 <<< (y % 8).toNat

/-- The mask of bits off to off + k - 1: ((1 << k) - 1) << off, computed in the integers (41_pixel_buffer.md R124). -/
def bitSpan (off k : Nat) : Byte := BitVec.ofNat 8 ((2 ^ k - 1) * 2 ^ off)

/-- The clip lines shared by HLINE (bound 128, R123) and VLINE (bound 64, R124): a negative start shrinks the length,
and a length past the bound is truncated. The answer is the clipped start and length; nothing is drawn unless the
length is positive. -/
def clipSpan (bound start len : Int) : Int × Int :=
  let len := if start < 0 then len + start else len
  let start := if start < 0 then 0 else start
  (start, if bound < start + len then bound - start else len)

end Sys2Proof.Machine
end

