-- ==== Sys2Proof/Machine/Ops.lean ====
section
/-!
DEFINITION. The shared operations: reading and writing byte stores, Compose, the source-range check, the bus events,
the end of a command, the fault latch (the PBU's trap entry) and the reset input (its only way back).
-/

namespace Sys2Proof.Machine

/-! ### Byte stores -/

/-- The canonical form of a store of `size` bytes: addresses strictly rising and below `size`, no byte listed that an
unlisted address reads as. -/
def Memory.wf (size : Nat) (m : Memory) : Bool :=
  decide (m.Pairwise (fun c d => c.1 < d.1)) && m.all (fun c => decide (c.1 < size) && c.2 != unlistedByte)

/-- The byte at an address. -/
def Memory.read : Memory → Nat → Byte
  | [], _ => unlistedByte
  | (k, b) :: rest, a => if k = a then b else Memory.read rest a

/-- The store without an address. -/
def Memory.erase (m : Memory) (a : Nat) : Memory := m.filter (fun c => c.1 != a)

/-- The store with one more cell, at its place in the rising order. -/
def Memory.insert : Memory → Nat → Byte → Memory
  | [], a, v => [(a, v)]
  | (k, b) :: rest, a, v => if a < k then (a, v) :: (k, b) :: rest else (k, b) :: Memory.insert rest a v

/-- Writing one byte; a byte that an unlisted address reads as is not listed. -/
def Memory.write (m : Memory) (a : Nat) (v : Byte) : Memory :=
  if v = unlistedByte then m.erase a else (m.erase a).insert a v

/-! ### Compose -/

/-- What a colour makes of a byte under a mask: OR, AND-NOT, XOR (20_memory.md R66). -/
def Color.apply : Color → Byte → Byte → Byte
  | .set, old, m => old ||| m
  | .clear, old, m => old &&& ~~~m
  | .invert, old, m => old ^^^ m

/-- `Compose(i, m)` under colour `col` (20_memory.md R66). An access outside [0, 1024) is never made (R61). -/
def compose (col : Color) (c : Memory) (i : Int) (mask : Byte) : Memory :=
  if 0 ≤ i ∧ i < 1024 then c.write i.toNat (Color.apply col (c.read i.toNat) mask) else c

/-- Compose the one pixel (x, y) if it is in the canvas (41_pixel_buffer.md R122, 42_blit.md R145). -/
def composePixel (col : Color) (c : Memory) (x y : Int) : Memory :=
  if inCanvas x y then compose col c (pixIndex x y) (rowBit y) else c

/-! ### The source memory -/

/-- `SrcOK(a, n)` for a source of `size` bytes (20_memory.md R79). -/
def srcOK (size : Nat) (a n : Int) : Bool := decide (n = 0) || (decide (0 ≤ a) && decide (a + n ≤ (size : Int)))

/-- `SrcRead(a)` (20_memory.md R63). -/
def srcRead (src : Memory) (a : Int) : Byte := Memory.read src a.toNat

/-! ### Updates of the state -/

/-- `End`: BUSY <- 0 (40_control.md, before R110). -/
def endCommand (s : State) : State := { s with busy := false }

/-- The state with another canvas. -/
def setCanvas (s : State) (c : Memory) : State := { s with canvas := c }

/-- Append events to the bus trace in call order (20_memory.md R64). -/
def emit (s : State) (es : List BusEvent) : State := { s with bus := s.bus ++ es }

/-- Answer a host read. -/
def answer (s : State) (r : Reply) : State := { s with replies := s.replies ++ [r] }

/-- The state with other coming turns. -/
def setTurns (s : State) (ts : List Turn) : State := { s with turns := ts }

/-- A drawing command ends with canvas `c`. -/
def finishDraw (s : State) (c : Memory) : State := endCommand (setCanvas s c)

/-! ### The fault latch and reset -/

/-- Record the first cause only (60_exceptions.md R203, R206). -/
def latchCause (c : Cause) (s : State) : State := if s.fault then s else { s with fault := true, cause := c }

/-- A command in progress takes no further step (60_exceptions.md R203). -/
def stopCommand (s : State) : State := if s.busy then { s with busy := false, syncState := .idle } else s

/-- `raise Fault(cause)`, the PBU's trap entry (60_exceptions.md R203). There is no vector, saved pc or mode. -/
def raiseFault (c : Cause) (s : State) : State := stopCommand (latchCause c s)

/-- An assertion of the reset input, the only way to clear FAULT (60_exceptions.md R204, 70_reset_and_hazards.md
R230): the PBU's state as R48 gives it for its configuration. The bus trace keeps what was emitted (R230), and the
rest of the surroundings stays (log 9). -/
def resetInput (s : State) : State :=
  { State.resetWith s.cfg with
    src := s.src, bus := s.bus, turns := s.turns, replies := s.replies
    initOutcomes := s.initOutcomes, initDraws := s.initDraws }

end Sys2Proof.Machine
end

