-- ==== Sys2Proof/Machine/Blit.lean ====
section
/-!
DEFINITION. The blit commands BLIT and BLITROW (spec/42_blit.md). Each is one unit step, reads `L` and the source
memory only, and writes the canvas only through Compose.
-/

namespace Sys2Proof.Machine

/-- One source byte of BLIT at destination column xp and primary page pg (R141): the primary write and the spill
write "one row below" are checked each on its own. -/
def blitByte (col : Color) (yOff : Nat) (c : Memory) (xp pg : Int) (b : Byte) : Memory :=
  if 0 ≤ xp ∧ xp < 128 then
    let c := if 0 ≤ pg ∧ pg < 8 then compose col c (xp + pg * 128) (b <<< yOff) else c
    if yOff ≠ 0 ∧ 0 ≤ pg + 1 ∧ pg + 1 < 8 then compose col c (xp + (pg + 1) * 128) (b >>> (8 - yOff)) else c
  else c

/-- The loop of BLIT over cnt source bytes from address `base`, in columns of rh bytes (R141). -/
def blitBody (col : Color) (src c : Memory) (x y rh base : Int) (cnt : Nat) : Memory :=
  (List.range cnt).foldl
    (fun c i => blitByte col (y % 8).toNat c (x + (i : Int) / rh) (y / 8 + (i : Int) % rh) (srcRead src (base + i))) c

/-- `BLIT` (R140, R141): the malformed-geometry test, then the source-range check, then the bytes. -/
def execBlit (s : State) : Host.Outcome State Fault Refusal :=
  let l := s.latched
  let base := l.srcBase + l.u16 6
  if l.s16 2 < 0 ∨ l.s16 3 ≤ 0 then .next (endCommand s)
  else if srcOK s.cfg.srcSize base (l.u16 7) then
    .next (finishDraw s
      (blitBody l.color s.src s.canvas (l.s16 0) (l.s16 1) (ceil8 (l.s16 3)) base (l.u16 7).toNat))
  else .next (raiseFault .sourceRange s)

/-- Stream bit k of a row-major source image at address `base`: bit 7 - (k mod 8) of source byte k div 8 (R145,
20_memory.md R69). -/
def streamBit (src : Memory) (base : Int) (k : Nat) : Bool := (srcRead src (base + (k / 8 : Nat))).getLsbD (7 - k % 8)

/-- The loop of BLITROW over n pixels in rows of w (R145): a 1 bit composes its pixel, a 0 bit leaves it. -/
def blitRowBody (col : Color) (src c : Memory) (x y w base : Int) (n : Nat) : Memory :=
  (List.range n).foldl
    (fun c k => if streamBit src base k then composePixel col c (x + (k : Int) % w) (y + (k : Int) / w) else c) c

/-- `BLITROW` (R145): the malformed-geometry test, then the source-range check, then the pixels. -/
def execBlitrow (s : State) : Host.Outcome State Fault Refusal :=
  let l := s.latched
  let n := l.s16 2 * l.s16 3
  if l.s16 2 ≤ 0 ∨ l.s16 3 ≤ 0 then .next (endCommand s)
  else if srcOK s.cfg.srcSize l.srcBase (ceil8 n) then
    .next (finishDraw s (blitRowBody l.color s.src s.canvas (l.s16 0) (l.s16 1) (l.s16 2) l.srcBase n.toNat))
  else .next (raiseFault .sourceRange s)

end Sys2Proof.Machine
end

