-- ==== Sys2Proof/Machine/Canvas.lean ====
section
/-!
DEFINITION. The canvas commands CLEAR, SETPIXEL, HLINE, VLINE, RECT and FILLRECT (spec/41_pixel_buffer.md). Each is
one unit step, reads its operands and colour from `L` only, and writes the canvas and BUSY only (R120).
-/

namespace Sys2Proof.Machine

/-- `CLEAR` (R121): every canvas byte 0x00 whatever the colour, that is the store with nothing listed. -/
def execClear (s : State) : Host.Outcome State Fault Refusal := .next (finishDraw s [])

/-- `SETPIXEL` (R122). -/
def execSetpixel (s : State) : Host.Outcome State Fault Refusal :=
  .next (finishDraw s (composePixel s.latched.color s.canvas (s.latched.s16 0) (s.latched.s16 1)))

/-- `HLineBody` (R123). -/
def hLineBody (col : Color) (c : Memory) (x y len : Int) : Memory :=
  if y < 0 ∨ 64 ≤ y then c
  else
    let (x, len) := clipSpan 128 x len
    (intRange x (x + len - 1)).foldl (fun c p => compose col c (p + y / 8 * 128) (rowBit y)) c

/-- `HLINE` (R123). -/
def execHline (s : State) : Host.Outcome State Fault Refusal :=
  .next (finishDraw s
    (hLineBody s.latched.color s.canvas (s.latched.s16 0) (s.latched.s16 1) (s.latched.s16 2)))

/-- Part (b) of `VLineBody` (R124): n whole bytes of column x from page p down. -/
def vLineFull (col : Color) (x : Int) : Nat → Int → Memory → Memory
  | 0, _, c => c
  | n + 1, p, c => vLineFull col x n (p + 1) (compose col c (x + p * 128) 0xFF)

/-- Parts (b) and (c) of `VLineBody` (R124): n rows of column x from the top of page p, as full bytes and then the
trailing partial byte for the rows left over. -/
def vLineTail (col : Color) (c : Memory) (x p : Int) (n : Nat) : Memory :=
  let c := vLineFull col x (n / 8) p c
  if n % 8 = 0 then c else compose col c (x + (p + (n / 8 : Nat)) * 128) (bitSpan 0 (n % 8))

/-- `VLineBody` (R124) after the clip lines: the leading partial byte (a) when the start row is not byte-aligned, then
parts (b) and (c). -/
def vLineParts (col : Color) (c : Memory) (x y : Int) (n : Nat) : Memory :=
  let off := (y % 8).toNat
  if off = 0 then vLineTail col c x (y / 8) n
  else
    let k := min (8 - off) n
    vLineTail col (compose col c (x + y / 8 * 128) (bitSpan off k)) x (y / 8 + 1) (n - k)

/-- `VLineBody` (R124). -/
def vLineBody (col : Color) (c : Memory) (x y len : Int) : Memory :=
  if x < 0 ∨ 128 ≤ x then c
  else
    let (y, len) := clipSpan 64 y len
    if len ≤ 0 then c else vLineParts col c x y len.toNat

/-- `VLINE` (R124). -/
def execVline (s : State) : Host.Outcome State Fault Refusal :=
  .next (finishDraw s
    (vLineBody s.latched.color s.canvas (s.latched.s16 0) (s.latched.s16 1) (s.latched.s16 2)))

/-- The four edges of RECT, top, left, right, bottom (R126). -/
def rectBody (col : Color) (c : Memory) (x y w h : Int) : Memory :=
  if w ≤ 0 ∨ h ≤ 0 then c
  else
    let c := hLineBody col c x y w
    let c := vLineBody col c x y h
    let c := vLineBody col c (x + w - 1) y h
    hLineBody col c x (y + h - 1) w

/-- `RECT` (R126). -/
def execRect (s : State) : Host.Outcome State Fault Refusal :=
  .next (finishDraw s
    (rectBody s.latched.color s.canvas (s.latched.s16 0) (s.latched.s16 1) (s.latched.s16 2) (s.latched.s16 3)))

/-- The rows of FILLRECT, top first (R127). -/
def fillRectBody (col : Color) (c : Memory) (x y w h : Int) : Memory :=
  if w ≤ 0 ∨ h ≤ 0 then c
  else (intRange y (y + h - 1)).foldl (fun c r => hLineBody col c x r w) c

/-- `FILLRECT` (R127). -/
def execFillrect (s : State) : Host.Outcome State Fault Refusal :=
  .next (finishDraw s
    (fillRectBody s.latched.color s.canvas (s.latched.s16 0) (s.latched.s16 1) (s.latched.s16 2) (s.latched.s16 3)))

end Sys2Proof.Machine
end

