-- ==== Sys2Proof/Machine/Control.lean ====
section
/-!
DEFINITION. The control commands NOP and INIT (spec/40_control.md). Each meaning is the unit step the command takes
after acceptance (60_exceptions.md R215).
-/

namespace Sys2Proof.Machine

/-- `NOP` (R113): End. -/
def execNop (s : State) : Host.Outcome State Fault Refusal := .next (endCommand s)

/-- The draw of InitOutcome (R112, 00_scope.md R7): what the environment gives next, and where it gives nothing the
free value (log 7). -/
def initOutcome (s : State) : Bool :=
  match s.initOutcomes with
  | ok :: _ => ok
  | [] => Config.initOutcome s.initDraws

/-- One draw is used up; each INIT draws afresh (R116). -/
def advanceDraw (s : State) : State :=
  { s with initOutcomes := s.initOutcomes.tail, initDraws := s.initDraws + 1 }

/-- INIT with outcome `ok` (R112): C and S all zero, READY 1, INIT_FAIL 0. All zero is the store with nothing
listed. Without DOUBLE_BUFFER there is no S, and its field stays as it was (R41). -/
def initStorage (s : State) : State :=
  { s with canvas := [], shadow := if s.cfg.doubleBuffer then [] else s.shadow, ready := true, initFail := false }

/-- INIT with outcome `fail` (R112): C and S unobservable, no partial state retained. The model drops the contents,
which no rule reads before the next successful INIT (log 4). -/
def dropStorage (s : State) : State :=
  { s with canvas := [], shadow := if s.cfg.doubleBuffer then [] else s.shadow, ready := false, initFail := true }

/-- INIT clears the bounding-box registers under both outcomes (R112). -/
def clearBBox (s : State) : State := { s with bboxValid := false, bbox := ⟨0x00, 0x00, 0x00, 0x00⟩ }

/-- `INIT` (R112). -/
def execInit (s : State) : Host.Outcome State Fault Refusal :=
  .next (endCommand (clearBBox (advanceDraw (if initOutcome s then initStorage s else dropStorage s))))

end Sys2Proof.Machine
end

