-- ==== Sys2Proof/Machine/Sync.lean ====
section
/-!
DEFINITION. The display delta-sync command SYNC (spec/43_sync.md): its acceptance action, its scan step and its
transmit step. The meaning of SYNC is the unit step its sequencer takes next (R160).
-/

namespace Sys2Proof.Machine

/-- The acceptance action of SYNC (R160, R168). Fields of SEQ that R160 does not name keep what they held; every one
is written before it is read (log 5). -/
def syncAccept (s : State) : State :=
  if s.cfg.doubleBuffer then
    { s with syncState := .scanning, seq := { s.seq with phase := .scan, scanPage := 0, found := false } }
  else
    { s with
      syncState := .transmitting
      seq := { s.seq with phase := .setup, minCol := 0, maxCol := 127, minPage := 0, maxPage := 7 }
      bbox := ⟨0x00, 0x7F, 0x00, 0x07⟩
      bboxValid := true }

/-- Expand the running box to the byte at page p, column c (R162). -/
def expandBox (q : Seq) (p c : Nat) : Seq :=
  if q.found then
    { q with
      minCol := min q.minCol c, maxCol := max q.maxCol c
      minPage := min q.minPage p, maxPage := max q.maxPage p }
  else { q with minCol := c, maxCol := c, minPage := p, maxPage := p, found := true }

/-- One byte of the scan (R162): compare, expand, and copy in every case (R163). -/
def scanByte (canvas : Memory) (p : Nat) (acc : Memory × Seq) (c : Nat) : Memory × Seq :=
  let pos := c + p * 128
  (acc.1.write pos (canvas.read pos),
    if canvas.read pos ≠ acc.1.read pos then expandBox acc.2 p c else acc.2)

/-- The 128 bytes of page p (R162). -/
def scanPage (canvas shadow : Memory) (q : Seq) (p : Nat) : Memory × Seq :=
  (List.range 128).foldl (scanByte canvas p) (shadow, q)

/-- `ScanEnd` (R164). -/
def scanEnd (s : State) : State :=
  if s.seq.found then
    { s with
      bbox := ⟨BitVec.ofNat 8 s.seq.minCol, BitVec.ofNat 8 s.seq.maxCol,
        BitVec.ofNat 8 s.seq.minPage, BitVec.ofNat 8 s.seq.maxPage⟩
      bboxValid := true
      syncState := .transmitting
      seq := { s.seq with phase := .setup } }
  else endCommand { s with bboxValid := false, syncState := .idle }

/-- The scan step (R162). -/
def scanStep (s : State) : State :=
  let p := s.seq.scanPage
  let r := scanPage s.canvas s.shadow s.seq p
  let s := { s with shadow := r.1, seq := { r.2 with scanPage := p + 1 } }
  if p + 1 = 8 then scanEnd s else s

/-- `DisplayRegWrite(cmd, a, b)` (R169): three transactions of the command-mode marker and one byte. -/
def displayRegWrite (g : Config) (cmd : Byte) (a b : Nat) : List BusEvent :=
  [cmd, BitVec.ofNat 8 a, BitVec.ofNat 8 b].flatMap
    (fun v => [.begin g.displayAddr, .write g.cmdModeMarker, .write v, .finish])

/-- The bus events of `Setup` (R165): the column register, then the page register. -/
def setupEvents (g : Config) (q : Seq) : List BusEvent :=
  displayRegWrite g g.colAddrCmd q.minCol q.maxCol ++ displayRegWrite g g.pageAddrCmd q.minPage q.maxPage

/-- `Setup` (R165). -/
def setup (s : State) : State :=
  emit { s with seq := { s.seq with txPage := s.seq.minPage, phase := .tx } } (setupEvents s.cfg s.seq)

/-- One payload byte of a transmit step (R166). The accumulator is the number of payload bytes in the open packet and
the events so far: a packet opens when it is empty, and is flushed at 16 bytes. -/
def txByte (g : Config) (acc : Nat × List BusEvent) (b : Byte) : Nat × List BusEvent :=
  let opened : List BusEvent := if acc.1 = 0 then [.begin g.displayAddr, .write g.dataModeMarker] else []
  if acc.1 + 1 = 16 then (0, acc.2 ++ opened ++ [.write b, .finish])
  else (acc.1 + 1, acc.2 ++ opened ++ [.write b])

/-- The payload events of one page of the box (R166): the last packet is flushed at the end of the row. -/
def txPayload (g : Config) (bytes : List Byte) : List BusEvent :=
  let r := bytes.foldl (txByte g) (0, [])
  if r.1 = 0 then r.2 else r.2 ++ [.finish]

/-- The bytes of page p from column minCol to maxCol, left first (R166, 20_memory.md R69). -/
def boxRow (canvas : Memory) (p minCol maxCol : Nat) : List Byte :=
  (List.range (maxCol + 1 - minCol)).map (fun k => canvas.read (minCol + k + p * 128))

/-- `TxEnd` (R167). -/
def txEnd (s : State) : State := endCommand { s with syncState := .idle }

/-- One page of the transmit step (R166), after the setup. -/
def txRow (s : State) : State :=
  let p := s.seq.txPage
  let s := emit { s with seq := { s.seq with txPage := p + 1 } }
    (txPayload s.cfg (boxRow s.canvas p s.seq.minCol s.seq.maxCol))
  if s.seq.maxPage < p + 1 then txEnd s else s

/-- The transmit step (R166): the first one begins with the setup (R165). -/
def txStep (s : State) : State := txRow (if s.seq.phase = .setup then setup s else s)

/-- `SYNC` (R160, R161): the unit step its phase names. -/
def execSync (s : State) : Host.Outcome State Fault Refusal :=
  .next (if s.seq.phase = .scan then scanStep s else txStep s)

end Sys2Proof.Machine
end

