-- ==== Sys2Proof/Machine/Dispatch.lean ====
section
/-! DEFINITION. The unit step of each command in progress: one arm per constructor of `Instr`. -/

namespace Sys2Proof.Machine

-- The state is one in which the command is in progress (60_exceptions.md R215, log 14).
def exec (i : Instr) (s : State) : Host.Outcome State Fault Refusal :=
  match i with
  | .nop => Sys2Proof.Machine.execNop s
  | .init => Sys2Proof.Machine.execInit s
  | .clear => Sys2Proof.Machine.execClear s
  | .setpixel => Sys2Proof.Machine.execSetpixel s
  | .hline => Sys2Proof.Machine.execHline s
  | .vline => Sys2Proof.Machine.execVline s
  | .rect => Sys2Proof.Machine.execRect s
  | .fillrect => Sys2Proof.Machine.execFillrect s
  | .blit => Sys2Proof.Machine.execBlit s
  | .blitrow => Sys2Proof.Machine.execBlitrow s
  | .sync => Sys2Proof.Machine.execSync s

end Sys2Proof.Machine
end

