-- ==== Sys2Proof/Decode.lean ====
section
/-!
DEFINITION. Decoding a command word (30_encoding.md R90, R92, R95, R97), decoding a register offset (10_state.md
R31), and the encoders the other way.
-/

namespace Sys2Proof

/-- Why a command word is illegal (R95). -/
inductive IllegalWord where
  /-- bits 15:8 are not 0x00 -/
  | reservedBits
  /-- `op` is 0x0B to 0xFF -/
  | reservedOpcode
deriving DecidableEq, Repr

/-- The `op` field, bits 7:0 (R90). -/
def opField (w : Word) : Byte := w.extractLsb' 0 8

/-- The `rsv` field, bits 15:8 (R90). -/
def rsvField (w : Word) : Byte := w.extractLsb' 8 8

/-- The opcode map (R92). -/
def opcodeOf : Nat → Option Instr
  | 0x00 => some .nop
  | 0x01 => some .init
  | 0x02 => some .clear
  | 0x03 => some .setpixel
  | 0x04 => some .hline
  | 0x05 => some .vline
  | 0x06 => some .rect
  | 0x07 => some .fillrect
  | 0x08 => some .blit
  | 0x09 => some .blitrow
  | 0x0A => some .sync
  | _ => none

/-- Decoding is total: every 16-bit word is one of the eleven commands or illegal (R95, R97). -/
def decode (w : Word) : Except IllegalWord Instr :=
  if rsvField w = 0 then
    match opcodeOf (opField w).toNat with
    | some i => .ok i
    | none => .error .reservedOpcode
  else .error .reservedBits

/-- The decoder's answer without the reason of a rejection. -/
def decode? (w : Word) : Option Instr :=
  match decode w with
  | .ok i => some i
  | .error _ => none

/-- The opcode of each command (R92). -/
def Instr.opcode : Instr → Byte
  | .nop => 0x00
  | .init => 0x01
  | .clear => 0x02
  | .setpixel => 0x03
  | .hline => 0x04
  | .vline => 0x05
  | .rect => 0x06
  | .fillrect => 0x07
  | .blit => 0x08
  | .blitrow => 0x09
  | .sync => 0x0A

/-- The command word of each command: 0x00 ++ op (R90, R92). -/
def encode (i : Instr) : Word := (0x00#8 ++ i.opcode : BitVec 16)

/-- The instruction the decoder reads from a word numbered as spec/opcode_table.json numbers it. Every command is
one 16-bit word (R91); bits above nbits are 0, and more than 16 bits is no command. -/
def decodeTableWord (nbits w : Nat) : Option Instr :=
  if nbits ≤ 16 ∧ w < 2 ^ nbits then decode? (BitVec.ofNat 16 w) else none

/-- The register at a word offset (10_state.md R31). -/
def Reg.ofOffset (off : BitVec 4) : Reg :=
  match off.toNat with
  | 0x0 => .cmd
  | 0x1 => .status
  | 0x2 => .color
  | 0x3 => .cause
  | 0x4 => .bboxCol
  | 0x5 => .bboxPage
  | 0x6 => .reserved6
  | 0x7 => .reserved7
  | n => .arg (Fin.ofNat 8 (n - 8))

/-- The word offset of a register (10_state.md R31). -/
def Reg.offset : Reg → BitVec 4
  | .cmd => 0x0
  | .status => 0x1
  | .color => 0x2
  | .cause => 0x3
  | .bboxCol => 0x4
  | .bboxPage => 0x5
  | .reserved6 => 0x6
  | .reserved7 => 0x7
  | .arg n => BitVec.ofNat 4 (8 + n.val)

end Sys2Proof
end

