-- ==== Sys2Proof/Machine/HostPort.lean ====
section
/-!
DEFINITION. What a host step does: register reads and writes (spec/40_control.md R110, R111, R114, R115), command
issue (60_exceptions.md R202), the debug read port (R214), the poll loop `waitidle` (30_encoding.md R101), the reset
input (70_reset_and_hazards.md R230) and the host's stores to its source memory (20_memory.md R63).
-/

namespace Sys2Proof.Machine

/-- `RegRead(OFF)` (R110). -/
def regRead (s : State) (off : BitVec 4) : Word :=
  match Reg.ofOffset off with
  | .cmd => 0x0000
  | .status => statusWord s
  | .color => colorWord s
  | .cause => causeWord s
  | .bboxCol => bboxColWord s
  | .bboxPage => bboxPageWord s
  | .reserved6 => 0x0000
  | .reserved7 => 0x0000
  | .arg n => s.arg.get n

/-- Step 5 of command issue (60_exceptions.md R202): latch the operands and the colour, set BUSY, remember which
command it is (log 2), and run the acceptance action of SYNC, the one command that has one (43_sync.md R160). -/
def accept (i : Instr) (s : State) : State :=
  let s := { s with latched := ⟨s.arg, s.color⟩, busy := true, current := i }
  match i with
  | .sync => syncAccept s
  | .nop | .init | .clear | .setpixel | .hline | .vline | .rect | .fillrect | .blit | .blitrow => s

/-- The commands that step 4 of command issue lets through while READY = 0 (60_exceptions.md R202). -/
def runsUnready : Instr → Bool
  | .nop | .init => true
  | .clear | .setpixel | .hline | .vline | .rect | .fillrect | .blit | .blitrow | .sync => false

/-- `IssueCommand(w)` (60_exceptions.md R202): the first step that applies decides. -/
def issueCommand (s : State) (w : Word) : State :=
  if s.fault then s
  else if s.busy then raiseFault .busyViolation s
  else
    match decode? w with
    | none => raiseFault .illegalOpcode s
    | some i => if s.ready || runsUnready i then accept i s else raiseFault .notReady s

/-- `ColorWrite(v)` (R114): bits 1:0 are the code, bits 15:2 are ignored. -/
def colorWrite (s : State) (v : Word) : State :=
  match colorOfCode (v.extractLsb' 0 2) with
  | some c => { s with color := c }
  | none => raiseFault .illegalColor s

/-- An ARG write (R115). -/
def argWrite (s : State) (n : Fin 8) (v : Word) : State := { s with arg := s.arg.set n v }

/-- `RegWrite(OFF, v)` (R111): ignored while FAULT = 1 (60_exceptions.md R204); a write to a read-only or reserved
register is ignored. -/
def regWrite (s : State) (off : BitVec 4) (v : Word) : State :=
  if s.fault then s
  else
    match Reg.ofOffset off with
    | .cmd => issueCommand s v
    | .color => colorWrite s v
    | .arg n => argWrite s n v
    | .status | .cause | .bboxCol | .bboxPage | .reserved6 | .reserved7 => s

/-- A register read as a host step: it answers and changes nothing else (R110, 20_memory.md R71). -/
def hostRead (s : State) (off : BitVec 4) : State := answer s (.register off (regRead s off))

/-- A debug-port read of C (60_exceptions.md R214). -/
def debugCanvas (s : State) (i : Fin 1024) : Host.Outcome State Fault Refusal :=
  if s.ready then .next (answer s (.canvasByte i (Memory.read s.canvas i.val))) else .refused .debugReadNotReady

/-- A debug-port read of S, which exists only with DOUBLE_BUFFER (60_exceptions.md R214, log 15). -/
def debugShadow (s : State) (i : Fin 1024) : Host.Outcome State Fault Refusal :=
  if s.cfg.doubleBuffer = false then .fault .shadowAbsent
  else if s.ready then .next (answer s (.shadowByte i (Memory.read s.shadow i.val)))
  else .refused .debugReadNotReady

/-- One poll of `waitidle` (30_encoding.md R101): read STATUS, and while BUSY reads 1 give the unit a turn and poll
again (log 11). -/
def waitIdle (s : State) : State :=
  let t := hostRead s Reg.status.offset
  if s.busy then setTurns t (.unit :: .host .waitIdle :: t.turns) else t

/-- Whether the command in progress reads the source memory (20_memory.md R60). -/
def sourceInUse (s : State) : Bool := s.busy && (s.current == .blit || s.current == .blitrow)

/-- The host puts a byte into the source memory it owns, at an address that exists and not while a command that reads
it is in progress (20_memory.md R63, 70_reset_and_hazards.md R234, log 8). -/
def storeSource (s : State) (a : Nat) (b : Byte) : Host.Outcome State Fault Refusal :=
  if s.cfg.srcSize ≤ a then .fault .sourceAddressAbsent
  else if sourceInUse s then .refused .sourceInUse
  else .next { s with src := Memory.write s.src a b }

/-- One host step (60_exceptions.md R215), or another move of the outside. -/
def hostMove (m : HostMove) (s : State) : Host.Outcome State Fault Refusal :=
  match m with
  | .write off v => .next (regWrite s off v)
  | .read off => .next (hostRead s off)
  | .debugCanvas i => debugCanvas s i
  | .debugShadow i => debugShadow s i
  | .waitIdle => .next (waitIdle s)
  | .storeSource a b => storeSource s a b
  | .reset => .next (resetInput s)

end Sys2Proof.Machine
end

