-- ==== Sys2Proof/Machine/Sequencer.lean ====
section
/-!
DEFINITION. The unit's turn: one step of the command in progress, when the unit is enabled (60_exceptions.md R215).
-/

namespace Sys2Proof.Machine

/-- A unit step is enabled only while BUSY = 1 and FAULT = 0 (R215). -/
def unitEnabled (s : State) : Bool := s.busy && !s.fault

/-- The unit's turn: the unit step of the command in progress, or nothing when no step is enabled (R204, R215,
log 19). -/
def unitTurn (s : State) : Host.Outcome State Fault Refusal :=
  if unitEnabled s then exec s.current s else .next s

end Sys2Proof.Machine
end

