-- ==== Sys2Proof/Machine/Step.lean ====
section
/-! DEFINITION. One step of the machine, and where a command word is placed to run next. -/

namespace Sys2Proof.Machine

/-- One step (60_exceptions.md R215): the agent the schedule names takes it. With no turn left the host does nothing
more, and the unit takes its enabled steps (weak fairness, log 1). A reset assertion is a turn, between whole steps
(log 20). -/
def step (s : State) : Host.Outcome State Fault Refusal :=
  match s.turns with
  | [] => unitTurn s
  | .unit :: rest => unitTurn (setTurns s rest)
  | .host m :: rest => hostMove m (setTurns s rest)

/-- The state in which the command of a table word has just been accepted and the unit has the next turn, so that the
next step runs it; a word that is no command is placed as the host's next CMD write (log 12). FAULT is 0, since the
unit takes no step otherwise. -/
def State.withFetchWord (s : State) (nbits w : Nat) : State :=
  let s := { s with fault := false, cause := .none }
  match decodeTableWord nbits w with
  | some i => setTurns (accept i s) (.unit :: s.turns)
  | none => setTurns s (.host (.write Reg.cmd.offset (BitVec.ofNat 16 (w % 2 ^ nbits))) :: s.turns)

end Sys2Proof.Machine
end

