-- ==== Sys2Proof/WellFormed.lean ====
section
/-!
DEFINITION. Which commands, configurations and assembly statements are well formed. A command word carries no
operand field (30_encoding.md R90), so there is nothing in a command to check; the checks are on the numbers a
statement writes (R99, R101) and on the configuration (00_scope.md R7).
-/

namespace Sys2Proof

/-- Every command is well formed: it has no field (R90, R91). -/
def Instr.wf : Instr → Bool
  | .nop | .init | .clear | .setpixel | .hline | .vline | .rect | .fillrect | .blit | .blitrow | .sync => true

/-- R7: SRC_SIZE is at most 2^32. -/
def Config.wf (c : Config) : Bool := decide (c.srcSize ≤ 2 ^ 32)

/-- A 16-bit number as R99 writes it: a 16-bit value in decimal or hexadecimal, or a negative decimal number stored as
its 16-bit two's complement (log 17). Both a signed and an unsigned slot of R93 take it. -/
def fits16 (v : Int) : Bool := decide (-32768 ≤ v) && decide (v ≤ 65535)

/-- The one 32-bit operand, a source address (R94, R99). -/
def fits32 (v : Int) : Bool := decide (0 ≤ v) && decide (v < 2 ^ 32)

/-- The byte count of `blitraw`: w·ceil8(h) (R101, with ceil8 of 00_scope.md R10). -/
def rawCount (w h : Int) : Int := w * ((h + 7) / 8)

/-- The statements an assembler accepts: every 16-bit operand fits 16 bits, the source address 32 (R99), and
`blitraw` is legal only when 0 ≤ w·ceil8(h) ≤ 65535 (R101). -/
def Stmt.wf : Stmt → Bool
  | .wr _ v => fits16 v
  | .rd _ | .nop | .init | .clear | .sync | .setcolor _ | .waitidle => true
  | .setpixel x y => fits16 x && fits16 y
  | .hline x y len | .vline x y len => fits16 x && fits16 y && fits16 len
  | .rect x y w h | .fillrect x y w h => fits16 x && fits16 y && fits16 w && fits16 h
  | .blit x y w h src off cnt =>
    fits16 x && fits16 y && fits16 w && fits16 h && fits32 src && fits16 off && fits16 cnt
  | .blitrow x y w h src => fits16 x && fits16 y && fits16 w && fits16 h && fits32 src
  | .blitraw x y w h src =>
    fits16 x && fits16 y && fits16 w && fits16 h && fits32 src
      && decide (0 ≤ rawCount w h) && decide (rawCount w h ≤ 65535)
  | .glyph x y w h font off size =>
    fits16 x && fits16 y && fits16 w && fits16 h && fits32 font && fits16 off && fits16 size

end Sys2Proof
end

