-- ==== Sys2Proof/Machine/Assembly.lean ====
section
/-!
DEFINITION. The assembly language (spec/30_encoding.md R99 to R102): which host turns a statement stands for.
-/

namespace Sys2Proof.Machine

/-- A number as it is stored in a 16-bit register: negative numbers as two's complement (R99). -/
def word16 (v : Int) : Word := BitVec.ofInt 16 v

/-- The low and the high half of a 32-bit source operand: ARG4 and ARG5 (R99, R94). -/
def srcHalves (src : Int) : List Int := [src % 65536, src / 65536]

/-- The operand writes of a command statement, in ARG order (R99, R100). -/
def argWrites (operands : List Int) : List (BitVec 4 × Word) :=
  operands.zipIdx.map (fun p => (BitVec.ofNat 4 (8 + p.2), word16 p.1))

/-- A command statement: the operand writes, then the CMD write (R99, R100). -/
def commandWrites (i : Instr) (operands : List Int) : List (BitVec 4 × Word) :=
  argWrites operands ++ [(Reg.cmd.offset, encode i)]

/-- The register writes a statement stands for, written `[off:value, …]` in R100. -/
def Stmt.writes : Stmt → List (BitVec 4 × Word)
  | .wr r v => [(r.offset, word16 v)]
  | .rd _ => []
  | .nop => commandWrites .nop []
  | .init => commandWrites .init []
  | .clear => commandWrites .clear []
  | .setpixel x y => commandWrites .setpixel [x, y]
  | .hline x y len => commandWrites .hline [x, y, len]
  | .vline x y len => commandWrites .vline [x, y, len]
  | .rect x y w h => commandWrites .rect [x, y, w, h]
  | .fillrect x y w h => commandWrites .fillrect [x, y, w, h]
  | .blit x y w h src off cnt => commandWrites .blit ([x, y, w, h] ++ srcHalves src ++ [off, cnt])
  | .blitrow x y w h src => commandWrites .blitrow ([x, y, w, h] ++ srcHalves src)
  | .sync => commandWrites .sync []
  | .setcolor c => [(Reg.color.offset, (colorCode c).setWidth 16)]
  | .blitraw x y w h src => commandWrites .blit ([x, y, w, h] ++ srcHalves src ++ [0, rawCount w h])
  | .glyph x y w h font off size => commandWrites .blit ([x, y, w, h] ++ srcHalves font ++ [off, size])
  | .waitidle => []

/-- The host turns of a statement: a read, the poll loop, or its register writes. -/
def Stmt.turns (t : Stmt) : List Turn :=
  match t with
  | .rd r => [.host (.read r.offset)]
  | .waitidle => [.host .waitIdle]
  | t => (Stmt.writes t).map (fun p => .host (.write p.1 p.2))

/-- The assembler rejects a statement that is not well formed (R101). -/
def assemble (t : Stmt) : Option (List Turn) := if Stmt.wf t then some (Stmt.turns t) else none

end Sys2Proof.Machine
end

