-- ==== Sys2Proof/Safety.lean ====
section
/-!
DEFINITION. The terms claims are made in: pixels and figures, the order of bus events, who takes a step, and the
invariant of a run.
-/

namespace Sys2Proof.Machine

/-! ### Runs -/

/-- k steps of the machine. -/
abbrev run (k : Nat) (s : State) : Host.Outcome State Fault Refusal := Host.Core.run Sys2Proof.core k s

/-- The unit takes the next step, and the command in progress is i (60_exceptions.md R215). -/
def unitRuns (s : State) (i : Instr) : Prop :=
  (s.turns = [] ∨ s.turns.head? = some .unit) ∧ unitEnabled s = true ∧ s.current = i

/-- The host takes the next step with move m. -/
def hostMoves (s : State) (m : HostMove) : Prop := s.turns.head? = some (.host m)

/-- The host's next step is a CMD write of command i that command issue accepts (60_exceptions.md R202). -/
def commandAccepted (s : State) (i : Instr) : Prop :=
  hostMoves s (.write Reg.cmd.offset (encode i)) ∧ s.fault = false ∧ s.busy = false ∧
    (s.ready = true ∨ i = .nop ∨ i = .init)

/-- The host's next step is an accepted CMD write of SYNC. -/
def syncAccepted (s : State) : Prop :=
  hostMoves s (.write Reg.cmd.offset (encode .sync)) ∧ s.fault = false ∧ s.busy = false ∧ s.ready = true

/-! ### Pixels -/

/-- `PixelOf(x, y)` (20_memory.md R67). -/
def pixel (c : Memory) (x y : Int) : Bool := (Memory.read c (pixIndex x y).toNat).getLsbD (y % 8).toNat

/-- One lane of Compose (42_blit.md R147): OR, AND-NOT, XOR. -/
def Color.bit : Color → Bool → Bool → Bool
  | .set, a, m => a || m
  | .clear, a, m => a && !m
  | .invert, a, m => xor a m

/-- Canvas c' is canvas c with colour col composed once on exactly the in-canvas pixels of a figure; every other pixel,
and every address outside the canvas, is as before (42_blit.md R142, R146). -/
def composed (col : Color) (fig : Int → Int → Prop) (c c' : Memory) : Prop :=
  (∀ x y : Int, inCanvas x y = true → fig x y → pixel c' x y = Color.bit col (pixel c x y) true) ∧
  (∀ x y : Int, inCanvas x y = true → ¬ fig x y → pixel c' x y = pixel c x y) ∧
  ∀ a : Nat, 1024 ≤ a → Memory.read c' a = Memory.read c a

/-- The pixels of HLINE x, y, len (41_pixel_buffer.md R123). -/
def onHLine (x y len px py : Int) : Prop := py = y ∧ x ≤ px ∧ px < x + len

/-- The pixels of VLINE x, y, len (R124). -/
def onVLine (x y len px py : Int) : Prop := px = x ∧ y ≤ py ∧ py < y + len

/-- The pixels of FILLRECT x, y, w, h (R127). -/
def inRect (x y w h px py : Int) : Prop := x ≤ px ∧ px < x + w ∧ y ≤ py ∧ py < y + h

/-- How many of the four edges of RECT x, y, w, h cover a pixel: top, left, right, bottom (R126). -/
def edgeCover (x y w h px py : Int) : Nat :=
  (if py = y ∧ x ≤ px ∧ px < x + w then 1 else 0) + (if px = x ∧ y ≤ py ∧ py < y + h then 1 else 0)
    + (if px = x + w - 1 ∧ y ≤ py ∧ py < y + h then 1 else 0) + (if py = y + h - 1 ∧ x ≤ px ∧ px < x + w then 1 else 0)

/-- How many times the figure of one of the five figure commands covers a pixel (R128); 0 for another command. -/
def cover (i : Instr) (l : Latched) (px py : Int) : Nat :=
  match i with
  | .setpixel => if px = l.s16 0 ∧ py = l.s16 1 then 1 else 0
  | .hline => if py = l.s16 1 ∧ l.s16 0 ≤ px ∧ px < l.s16 0 + l.s16 2 then 1 else 0
  | .vline => if px = l.s16 0 ∧ l.s16 1 ≤ py ∧ py < l.s16 1 + l.s16 2 then 1 else 0
  | .rect =>
    if 0 < l.s16 2 ∧ 0 < l.s16 3 then edgeCover (l.s16 0) (l.s16 1) (l.s16 2) (l.s16 3) px py else 0
  | .fillrect =>
    if l.s16 0 ≤ px ∧ px < l.s16 0 + l.s16 2 ∧ l.s16 1 ≤ py ∧ py < l.s16 1 + l.s16 3 then 1 else 0
  | .nop | .init | .clear | .blit | .blitrow | .sync => 0

/-- The commands of R128: each names a geometric figure. -/
def namesFigure (i : Instr) : Prop := i = .setpixel ∨ i = .hline ∨ i = .vline ∨ i = .rect ∨ i = .fillrect

/-- Pixel (px, py) is a 1 bit of the BLIT of cnt source bytes from `base`, in columns of rh bytes, at (x, y)
(42_blit.md R142). -/
def onBlit (src : Memory) (x y rh base : Int) (cnt : Nat) (px py : Int) : Prop :=
  ∃ i k : Nat, i < cnt ∧ k < 8 ∧ px = x + (i : Int) / rh ∧ py = y + 8 * ((i : Int) % rh) + k ∧
    (srcRead src (base + i)).getLsbD k = true

/-- Pixel (px, py) is a 1 bit of the BLITROW of n pixels from `base`, in rows of w, at (x, y) (42_blit.md R146). -/
def onBlitRow (src : Memory) (x y w base : Int) (n : Nat) (px py : Int) : Prop :=
  ∃ k : Nat, k < n ∧ px = x + (k : Int) % w ∧ py = y + (k : Int) / w ∧ streamBit src base k = true

/-! ### Reset -/

/-- The values of 10_state.md R48: every register as the table gives it, no command in progress, and the contents of C
and S not observable through the debug port. -/
def resetValues (s : State) : Prop :=
  (∀ n : Fin 8, s.arg.get n = 0x0000) ∧ colorWord s = 0x0001 ∧ s.color = .set ∧
  s.ready = false ∧ s.busy = false ∧ s.fault = false ∧ s.initFail = false ∧ s.bboxValid = false ∧
  s.syncState = .idle ∧ causeWord s = 0x0000 ∧ bboxColWord s = 0x0000 ∧ bboxPageWord s = 0x0000 ∧
  statusWord s = (if s.cfg.doubleBuffer then 0x0040 else 0x0000) ∧
  (∀ i : Fin 1024, debugCanvas s i = .refused .debugReadNotReady) ∧
  ∀ (i : Fin 1024) (t : State), debugShadow s i ≠ .next t

/-! ### Bus events -/

/-- Where a bus trace stands: between transactions, after a Begin, or after at least one Write. -/
inductive BusPlace where
  | between | begun | data
deriving DecidableEq, Repr

/-- Each Begin is followed by one or more Writes and then one End, before the next Begin (60_exceptions.md R213). -/
def BusPlace.next : BusPlace → BusEvent → Option BusPlace
  | .between, .begin _ => some .begun
  | .begun, .write _ => some .data
  | .data, .write _ => some .data
  | .data, .finish => some .between
  | .between, .write _ => none
  | .between, .finish => none
  | .begun, .begin _ => none
  | .begun, .finish => none
  | .data, .begin _ => none

/-- The place a trace leads to, if every event is in order. -/
def busPlace (p : BusPlace) (es : List BusEvent) : Option BusPlace := es.foldlM BusPlace.next p

/-- The trace is a sequence of whole transactions (R203, R213). -/
def busClosed (es : List BusEvent) : Prop := busPlace .between es = some .between

/-- How many `BusWrite` events a trace holds (43_sync.md R171). -/
def busWrites (es : List BusEvent) : Nat :=
  es.countP (fun e => match e with | .write _ => true | .begin _ | .finish => false)

/-- How many transactions a trace begins (43_sync.md R171). -/
def busBegins (es : List BusEvent) : Nat :=
  es.countP (fun e => match e with | .begin _ => true | .write _ | .finish => false)

/-- One payload packet (43_sync.md R166). -/
def packet (g : Config) (bytes : List Byte) : List BusEvent :=
  [.begin g.displayAddr, .write g.dataModeMarker] ++ bytes.map .write ++ [.finish]

/-- A row's bytes cut into ceil(W/16) packets: bytes 16·j to 16·j + 15 in packet j, the last one shorter if W is not a
multiple of 16 (R166). -/
def packetize (g : Config) (bytes : List Byte) : List BusEvent :=
  (List.range ((bytes.length + 15) / 16)).flatMap (fun j => packet g ((bytes.drop (16 * j)).take 16))

/-! ### The running box -/

/-- The column of page p holds a byte of the canvas that differs from the shadow (43_sync.md R162). -/
def differsAt (canvas shadow : Memory) (p c : Nat) : Prop :=
  c < 128 ∧ Memory.read canvas (c + p * 128) ≠ Memory.read shadow (c + p * 128)

/-- The running box r is the running box q, if it has found something, widened to the columns D of page p and no further
(43_sync.md R162). -/
def boxGrows (q r : Seq) (p : Nat) (D : Nat → Prop) : Prop :=
  ((∀ c, ¬ D c) → r.found = q.found ∧ r.minCol = q.minCol ∧ r.maxCol = q.maxCol ∧
    r.minPage = q.minPage ∧ r.maxPage = q.maxPage) ∧
  ((∃ c, D c) → r.found = true ∧
    (∀ c, D c → r.minCol ≤ c ∧ c ≤ r.maxCol) ∧
    (D r.minCol ∨ q.found = true ∧ r.minCol = q.minCol) ∧
    (D r.maxCol ∨ q.found = true ∧ r.maxCol = q.maxCol) ∧
    (q.found = true → r.minCol ≤ q.minCol ∧ q.maxCol ≤ r.maxCol ∧
      r.minPage = min q.minPage p ∧ r.maxPage = max q.maxPage p) ∧
    (q.found = false → r.minPage = p ∧ r.maxPage = p))

/-! ### The invariant of a run -/

/-- Every store is in canonical form. -/
def memInv (s : State) : Prop :=
  Memory.wf 1024 s.canvas = true ∧ Memory.wf 1024 s.shadow = true ∧ Memory.wf s.cfg.srcSize s.src = true

/-- The status fields agree with one another (10_state.md R34, R36, R44; 60_exceptions.md R202, R203). -/
def statusInv (s : State) : Prop :=
  (s.fault = true ↔ s.cause ≠ .none) ∧
  (s.fault = true → s.busy = false) ∧
  (s.busy = false → s.syncState = .idle) ∧
  (s.busy = true → s.current ≠ .sync → s.syncState = .idle) ∧
  (s.busy = true → runsUnready s.current = false → s.ready = true) ∧
  (s.ready = true → s.initFail = false) ∧
  (s.bboxValid = true → s.ready = true) ∧
  s.cfg.wf = true

/-- The running box is a box of the canvas. -/
def boxInv (q : Seq) : Prop := q.minCol ≤ q.maxCol ∧ q.maxCol < 128 ∧ q.minPage ≤ q.maxPage ∧ q.maxPage < 8

/-- The box registers report the running box (43_sync.md R164, R168). -/
def boxReported (s : State) : Prop :=
  s.bboxValid = true ∧
  s.bbox = ⟨BitVec.ofNat 8 s.seq.minCol, BitVec.ofNat 8 s.seq.maxCol,
    BitVec.ofNat 8 s.seq.minPage, BitVec.ofNat 8 s.seq.maxPage⟩

/-- C and S hold the same bytes below an index. -/
def agreeBelow (s : State) (n : Nat) : Prop := ∀ a : Nat, a < n → Memory.read s.shadow a = Memory.read s.canvas a

/-- What holds between the steps of a SYNC in progress (10_state.md R43, R44; 43_sync.md R162 to R166, R170). -/
def syncInv (s : State) : Prop :=
  match s.seq.phase with
  | .scan =>
    s.cfg.doubleBuffer = true ∧ s.syncState = .scanning ∧ s.seq.scanPage < 8 ∧
      (s.seq.found = true → boxInv s.seq ∧ s.seq.maxPage < s.seq.scanPage) ∧
      agreeBelow s (s.seq.scanPage * 128)
  | .setup =>
    s.syncState = .transmitting ∧ boxInv s.seq ∧ boxReported s ∧
      (s.cfg.doubleBuffer = true → agreeBelow s 1024)
  | .tx =>
    s.syncState = .transmitting ∧ boxInv s.seq ∧ boxReported s ∧
      (s.cfg.doubleBuffer = true → agreeBelow s 1024) ∧
      s.seq.minPage ≤ s.seq.txPage ∧ s.seq.txPage ≤ s.seq.maxPage

/-- The invariant of a run: canonical memory, no shadow without DOUBLE_BUFFER (10_state.md R41), consistent status,
a consistent sequencer while a SYNC is in progress, and whole bus transactions only. -/
def State.Inv (s : State) : Prop :=
  memInv s ∧ (s.cfg.doubleBuffer = false → s.shadow = []) ∧ statusInv s ∧
  (s.busy = true → s.current = .sync → syncInv s) ∧ busClosed s.bus

end Sys2Proof.Machine
end

