-- ==== Sys2Proof/Certificates/Slice0/Obligations.lean ====
section
/-!
DEFINITION. The statements about the PBU. `exec i s` is the unit step of command i from state s, in which i is the
command in progress (60_exceptions.md R215); each statement about it holds in every state.
-/

open Sys2Proof Sys2Proof.Machine

/-! ### Encoding and assembly -/

/-- R92, R97: the opcode map, and every other word is illegal: its bits 15:8 are not 0x00 or its `op` is above 0x0A. -/
def Obligations.WordsDecodeByOpcodeMap : Prop :=
  (encode .nop = 0x0000 ∧ encode .init = 0x0001 ∧ encode .clear = 0x0002 ∧ encode .setpixel = 0x0003 ∧
    encode .hline = 0x0004 ∧ encode .vline = 0x0005 ∧ encode .rect = 0x0006 ∧ encode .fillrect = 0x0007 ∧
    encode .blit = 0x0008 ∧ encode .blitrow = 0x0009 ∧ encode .sync = 0x000A) ∧
  (∀ (w : Word) (i : Instr), decode? w = some i ↔ w = encode i) ∧
  ∀ w : Word, decode? w = none ↔ rsvField w ≠ 0 ∨ 0x0A < (opField w).toNat

/-- R92: words written out from the opcode map decode to their commands, and reserved words do not decode. -/
def Obligations.SampleWordsDecode : Prop :=
  decode 0b0000000000000000 = .ok .nop ∧ decode 0b0000000000000001 = .ok .init ∧
  decode 0b0000000000000011 = .ok .setpixel ∧ decode 0b0000000000000111 = .ok .fillrect ∧
  decode 0b0000000000001000 = .ok .blit ∧ decode 0b0000000000001010 = .ok .sync ∧
  decode 0b0000000000001011 = .error .reservedOpcode ∧ decode 0b0000000100000011 = .error .reservedBits

/-- 10_state.md R31: the register map, both ways. -/
def Obligations.RegisterMapRoundTrip : Prop :=
  (∀ r : Reg, Reg.ofOffset r.offset = r) ∧ ∀ off : BitVec 4, (Reg.ofOffset off).offset = off

/-- R102: the worked encoding of `blitraw 10, 3, 2, 16, 0x100`. -/
def Obligations.WorkedEncodingOfBlitraw : Prop :=
  Stmt.wf (.blitraw 10 3 2 16 0x100) = true ∧
  Stmt.turns (.blitraw 10 3 2 16 0x100) = Stmt.turns (.blit 10 3 2 16 0x100 0 4) ∧
  Stmt.writes (.blitraw 10 3 2 16 0x100) =
    [(0x8, 0x000A), (0x9, 0x0003), (0xA, 0x0002), (0xB, 0x0010), (0xC, 0x0100), (0xD, 0x0000), (0xE, 0x0000),
      (0xF, 0x0004), (0x0, 0x0008)]

/-- R101: the pseudo-instructions expand as the table says. `blitraw` is rejected exactly when its byte count is outside 0
to 65535, its other operands being well formed: that these are the numbers as written, each from -32768 to 65535, is
the model's reading (log 17). `waitidle` is stated with the poll loop (WaitIdlePollsStatus). -/
def Obligations.PseudoInstructionsExpand : Prop :=
  Stmt.writes (.setcolor .set) = [(0x2, 1)] ∧ Stmt.writes (.setcolor .clear) = [(0x2, 0)] ∧
  Stmt.writes (.setcolor .invert) = [(0x2, 2)] ∧
  (∀ x y w h src : Int, Stmt.writes (.blitraw x y w h src) = Stmt.writes (.blit x y w h src 0 (w * ceil8 h))) ∧
  (∀ x y w h font off size : Int,
    Stmt.writes (.glyph x y w h font off size) = Stmt.writes (.blit x y w h font off size)) ∧
  ∀ x y w h src : Int, Stmt.wf (.blitrow x y w h src) = true →
    (assemble (.blitraw x y w h src) = none ↔ w * ceil8 h < 0 ∨ 65535 < w * ceil8 h)

/-- R93, R94, R99: a number stored in an operand register reads back as itself through a signed slot (-32768 to 32767)
and through an unsigned slot (0 to 65535), and a source address, written as its two halves to ARG4 and ARG5, reads back
as the source base. -/
def Obligations.OperandsReadBack : Prop :=
  ∀ l : Latched,
    (∀ (n : Fin 8) (v : Int), l.arg.get n = word16 v → -32768 ≤ v → v ≤ 32767 → l.s16 n = v) ∧
    (∀ (n : Fin 8) (v : Int), l.arg.get n = word16 v → 0 ≤ v → v ≤ 65535 → l.u16 n = v) ∧
    ∀ src : Int, [l.arg.get 4, l.arg.get 5] = (srcHalves src).map word16 → 0 ≤ src → src < 2 ^ 32 → l.srcBase = src

/-- R93, R94, R99, R100: the register writes of each command statement: its operands to ARG0 upward in the order of R93, a
source address as its low and its high half, then its word to CMD. R91, R42: done one after another, from a state with
FAULT = 0 and BUSY = 0 in which the command may be issued, the writes of a command leave exactly that command
accepted, its operands in ARG and latched, every other ARG as it was, and the rest as acceptance leaves it. -/
def Obligations.AssembledCommandIsAccepted : Prop :=
  (∀ x y w h src off cnt : Int,
    let lo : Word := word16 (src % 65536)
    let hi : Word := word16 (src / 65536)
    Stmt.writes .nop = [(0x0, 0x0000)] ∧ Stmt.writes .init = [(0x0, 0x0001)] ∧
    Stmt.writes .clear = [(0x0, 0x0002)] ∧ Stmt.writes .sync = [(0x0, 0x000A)] ∧
    Stmt.writes (.setpixel x y) = [(0x8, word16 x), (0x9, word16 y), (0x0, 0x0003)] ∧
    Stmt.writes (.hline x y w) = [(0x8, word16 x), (0x9, word16 y), (0xA, word16 w), (0x0, 0x0004)] ∧
    Stmt.writes (.vline x y h) = [(0x8, word16 x), (0x9, word16 y), (0xA, word16 h), (0x0, 0x0005)] ∧
    Stmt.writes (.rect x y w h) =
      [(0x8, word16 x), (0x9, word16 y), (0xA, word16 w), (0xB, word16 h), (0x0, 0x0006)] ∧
    Stmt.writes (.fillrect x y w h) =
      [(0x8, word16 x), (0x9, word16 y), (0xA, word16 w), (0xB, word16 h), (0x0, 0x0007)] ∧
    Stmt.writes (.blit x y w h src off cnt) =
      [(0x8, word16 x), (0x9, word16 y), (0xA, word16 w), (0xB, word16 h), (0xC, lo), (0xD, hi), (0xE, word16 off),
        (0xF, word16 cnt), (0x0, 0x0008)] ∧
    Stmt.writes (.blitrow x y w h src) =
      [(0x8, word16 x), (0x9, word16 y), (0xA, word16 w), (0xB, word16 h), (0xC, lo), (0xD, hi), (0x0, 0x0009)]) ∧
  ∀ (i : Instr) (ops : List Int) (s : State),
    ops.length ≤ 8 → s.fault = false → s.busy = false → (s.ready = true ∨ i = .nop ∨ i = .init) →
    ∃ a : Vector Word 8,
      (commandWrites i ops).foldl (fun s p => regWrite s p.1 p.2) s = accept i { s with arg := a } ∧
      (accept i { s with arg := a }).latched.arg = a ∧
      ∀ n : Fin 8, a.get n = if h : n.val < ops.length then word16 ops[n.val] else s.arg.get n

/-! ### Reset and registers -/

/-- 10_state.md R48: the state after reset, for every configuration. -/
def Obligations.ResetGivesStatedValues : Prop :=
  ∀ g : Config, resetValues (State.resetWith g) ∧ (State.resetWith g).cfg = g

/-- 70_reset_and_hazards.md R230: at power-on, and at the reset input from any state, the PBU has the values of R48. The
reset input abandons the command in progress; the configuration stays, and events already emitted stay emitted. -/
def Obligations.ResetInputKeepsBusTrace : Prop :=
  resetValues State.reset ∧
  ∀ s : State, ∃ t : State, hostMove .reset s = .next t ∧ resetValues t ∧ t.cfg = s.cfg ∧ t.bus = s.bus

/-- 40_control.md R110: what a register read returns, at any time; it changes nothing in the PBU. While a SYNC of a run is
in progress, SYNC_STATE reads as the sequencer's phase. -/
def Obligations.RegisterReadValues : Prop :=
  ∀ s : State,
    (∀ off : BitVec 4,
      hostMove (.read off) s = .next { s with replies := s.replies ++ [.register off (regRead s off)] }) ∧
    regRead s 0x0 = 0x0000 ∧
    ((regRead s 0x1).getLsbD 0 = s.ready ∧ (regRead s 0x1).getLsbD 1 = s.busy ∧
      (regRead s 0x1).extractLsb' 2 2 = syncStateCode s.syncState ∧ (regRead s 0x1).getLsbD 4 = s.fault ∧
      (regRead s 0x1).getLsbD 5 = s.initFail ∧ (regRead s 0x1).getLsbD 6 = s.cfg.doubleBuffer ∧
      (regRead s 0x1).getLsbD 7 = s.bboxValid ∧ (regRead s 0x1).extractLsb' 8 8 = 0x00) ∧
    (regRead s 0x2).extractLsb' 0 2 = colorCode s.color ∧ (regRead s 0x2).extractLsb' 2 14 = 0 ∧
    (regRead s 0x3).extractLsb' 0 8 = causeCode s.cause ∧ (regRead s 0x3).extractLsb' 8 8 = 0x00 ∧
    (regRead s 0x4).extractLsb' 0 8 = s.bbox.minCol ∧ (regRead s 0x4).extractLsb' 8 8 = s.bbox.maxCol ∧
    (regRead s 0x5).extractLsb' 0 8 = s.bbox.minPage ∧ (regRead s 0x5).extractLsb' 8 8 = s.bbox.maxPage ∧
    regRead s 0x6 = 0x0000 ∧ regRead s 0x7 = 0x0000 ∧
    (∀ n : Fin 8, regRead s (BitVec.ofNat 4 (8 + n.val)) = s.arg.get n) ∧
    (State.Inv s → s.busy = true → s.current = .sync →
      (regRead s 0x1).extractLsb' 2 2 = if s.seq.phase = .scan then 1 else 2)

/-- 40_control.md R111: a register write is ignored while FAULT = 1; otherwise a write to CMD issues a command, a write
to COLOR and to ARG does what R114 and R115 say, and a write to a read-only or reserved register is ignored. -/
def Obligations.RegisterWriteMap : Prop :=
  ∀ (s : State) (off : BitVec 4) (v : Word),
    (s.fault = true → hostMove (.write off v) s = .next s) ∧
    (s.fault = false →
      (off = 0x0 → hostMove (.write off v) s = .next (issueCommand s v)) ∧
      (off = 0x2 → hostMove (.write off v) s = .next (colorWrite s v)) ∧
      (∀ n : Fin 8, off = BitVec.ofNat 4 (8 + n.val) →
        hostMove (.write off v) s = .next { s with arg := s.arg.set n v }) ∧
      (off = 0x1 ∨ off = 0x3 ∨ off = 0x4 ∨ off = 0x5 ∨ off = 0x6 ∨ off = 0x7 → hostMove (.write off v) s = .next s))

/-- R114: a COLOR write takes bits 1:0 at any time but FAULT = 1 (BUSY = 1 and READY = 0 included); the code 3 raises
ILLEGAL_COLOR and leaves COLOR unchanged. -/
def Obligations.ColorWriteTakesLowBits : Prop :=
  ∀ (s : State) (v : Word), s.fault = false →
    (v.extractLsb' 0 2 = 0 → hostMove (.write 0x2 v) s = .next { s with color := .clear }) ∧
    (v.extractLsb' 0 2 = 1 → hostMove (.write 0x2 v) s = .next { s with color := .set }) ∧
    (v.extractLsb' 0 2 = 2 → hostMove (.write 0x2 v) s = .next { s with color := .invert }) ∧
    (v.extractLsb' 0 2 = 3 → hostMove (.write 0x2 v) s = .next (raiseFault .illegalColor s) ∧
      (raiseFault .illegalColor s).color = s.color)

/-- R115, R32, R236: an ARG write at any time but FAULT = 1 takes effect at once, in that register alone; the latched
operands of a running command stay. -/
def Obligations.ArgWriteTakesEffectAtOnce : Prop :=
  ∀ (s : State) (n : Fin 8) (v : Word), s.fault = false →
    ∃ t : State, hostMove (.write (BitVec.ofNat 4 (8 + n.val)) v) s = .next t ∧
      t = { s with arg := t.arg } ∧ regRead t (BitVec.ofNat 4 (8 + n.val)) = v ∧
      ∀ m : Fin 8, m ≠ n → t.arg.get m = s.arg.get m

/-! ### Command issue, faults -/

/-- 60_exceptions.md R202: the checks of command issue, in their order, and what acceptance does. A rejected command
has no effect but the fault. A BUSY_VIOLATION also stops the command in progress, as R203 says (log 21). -/
def Obligations.CommandIssueChecksInOrder : Prop :=
  ∀ (s : State) (w : Word),
    (s.fault = true → hostMove (.write 0x0 w) s = .next s) ∧
    (s.fault = false → s.busy = true →
      hostMove (.write 0x0 w) s =
        .next { s with fault := true, cause := .busyViolation, busy := false, syncState := .idle }) ∧
    (s.fault = false → s.busy = false → rsvField w ≠ 0 ∨ 0x0A < (opField w).toNat →
      hostMove (.write 0x0 w) s = .next { s with fault := true, cause := .illegalOpcode }) ∧
    ∀ i : Instr, s.fault = false → s.busy = false → w = encode i →
      (s.ready = false → i ≠ .nop → i ≠ .init →
        hostMove (.write 0x0 w) s = .next { s with fault := true, cause := .notReady }) ∧
      (s.ready = true ∨ i = .nop ∨ i = .init →
        hostMove (.write 0x0 w) s =
          .next (if i = .sync then syncAccept { s with latched := ⟨s.arg, s.color⟩, busy := true, current := .sync }
            else { s with latched := ⟨s.arg, s.color⟩, busy := true, current := i }))

/-- R203: the fault latch. It records the first cause, stops a command in progress, and writes nothing else; a command
that faults has left C as it was, and no fault leaves a bus transaction open. -/
def Obligations.FaultLatchRecordsFirstCause : Prop :=
  (∀ (c : Cause) (s : State),
    (s.fault = false → s.busy = false → raiseFault c s = { s with fault := true, cause := c }) ∧
    (s.fault = false → s.busy = true →
      raiseFault c s = { s with fault := true, cause := c, busy := false, syncState := .idle }) ∧
    (s.fault = true → s.busy = false → raiseFault c s = s) ∧
    (s.fault = true → s.busy = true → raiseFault c s = { s with busy := false, syncState := .idle })) ∧
  ∀ (i : Instr) (s t : State), exec i s = .next t → s.fault = false → t.fault = true →
    t.canvas = s.canvas ∧ (busClosed s.bus → busClosed t.bus)

/-- R204, R206: while FAULT = 1, no step but a reset changes anything in the PBU or on the bus: register writes are
ignored, the unit takes no step, and the cause is kept. Register reads and, while READY = 1, debug-port reads still
answer. -/
def Obligations.FaultFreezesTheUnit : Prop :=
  (∀ s t : State, s.fault = true → step s = .next t → ¬ hostMoves s .reset →
    t = { s with turns := t.turns, replies := t.replies, src := t.src }) ∧
  ∀ s : State, s.fault = true →
    (∀ off : BitVec 4,
      hostMove (.read off) s = .next { s with replies := s.replies ++ [.register off (regRead s off)] }) ∧
    (s.ready = true → ∀ i : Fin 1024,
      hostMove (.debugCanvas i) s =
        .next { s with replies := s.replies ++ [.canvasByte i (Memory.read s.canvas i.val)] } ∧
      (s.cfg.doubleBuffer = true →
        hostMove (.debugShadow i) s =
          .next { s with replies := s.replies ++ [.shadowByte i (Memory.read s.shadow i.val)] }))

/-- R201: which step raises which cause. If a step sets FAULT, the recorded code is the one whose condition held. -/
def Obligations.EachCauseHasItsCondition : Prop :=
  ∀ s t : State, s.fault = false → step s = .next t → t.fault = true →
    (causeCode t.cause = 0x01 ∧ s.ready = false ∧
      ∃ i : Instr, i ≠ .nop ∧ i ≠ .init ∧ hostMoves s (.write 0x0 (encode i))) ∨
    (causeCode t.cause = 0x02 ∧
      ∃ w : Word, (rsvField w ≠ 0 ∨ 0x0A < (opField w).toNat) ∧ hostMoves s (.write 0x0 w)) ∨
    (causeCode t.cause = 0x03 ∧ ∃ v : Word, v.extractLsb' 0 2 = 3 ∧ hostMoves s (.write 0x2 v)) ∨
    (causeCode t.cause = 0x04 ∧ s.busy = true ∧ ∃ w : Word, hostMoves s (.write 0x0 w)) ∨
    (causeCode t.cause = 0x05 ∧
      ((unitRuns s .blit ∧
          s.latched.u16 7 ≠ 0 ∧ (s.cfg.srcSize : Int) < s.latched.srcBase + s.latched.u16 6 + s.latched.u16 7) ∨
        (unitRuns s .blitrow ∧
          (s.cfg.srcSize : Int) < s.latched.srcBase + ceil8 (s.latched.s16 2 * s.latched.s16 3))))

/-- R214: the debug read port. It answers the byte of C, and of S with DOUBLE_BUFFER, while READY = 1, refuses while
READY = 0, and has no effect on the PBU. -/
def Obligations.DebugPortReadsWhenReady : Prop :=
  ∀ (s : State) (i : Fin 1024),
    (s.ready = true →
      hostMove (.debugCanvas i) s =
        .next { s with replies := s.replies ++ [.canvasByte i (Memory.read s.canvas i.val)] }) ∧
    (s.ready = false → hostMove (.debugCanvas i) s = .refused .debugReadNotReady) ∧
    (s.cfg.doubleBuffer = true → s.ready = true →
      hostMove (.debugShadow i) s =
        .next { s with replies := s.replies ++ [.shadowByte i (Memory.read s.shadow i.val)] }) ∧
    (s.cfg.doubleBuffer = true → s.ready = false → hostMove (.debugShadow i) s = .refused .debugReadNotReady)

/-- The model's choices of log 8 and log 15, on the ground of 20_memory.md R63, 10_state.md R41 and
70_reset_and_hazards.md R234: a read of the absent shadow and a host store to a source address that does not exist are
faults; a store while a blit is in progress is refused; any other store puts its byte and changes nothing else. -/
def Obligations.HostAccessesOutsideThePbu : Prop :=
  ∀ s : State,
    (∀ i : Fin 1024, s.cfg.doubleBuffer = false → hostMove (.debugShadow i) s = .fault .shadowAbsent) ∧
    ∀ (a : Nat) (b : Byte),
      (s.cfg.srcSize ≤ a → hostMove (.storeSource a b) s = .fault .sourceAddressAbsent) ∧
      (a < s.cfg.srcSize → s.busy = true → s.current = .blit ∨ s.current = .blitrow →
        hostMove (.storeSource a b) s = .refused .sourceInUse) ∧
      (a < s.cfg.srcSize → s.busy = false ∨ (s.current ≠ .blit ∧ s.current ≠ .blitrow) →
        ∃ t : State, hostMove (.storeSource a b) s = .next t ∧ t = { s with src := t.src } ∧
          ∀ c : Nat, Memory.read t.src c = if c = a then b else Memory.read s.src c)

/-! ### The commands -/

/-- Every command runs in every state: no unit step ends in a fault or a refusal of the model. -/
def Obligations.EveryCommandCompletesItsStep : Prop :=
  ∀ (i : Instr) (s : State), ∃ t : State, exec i s = .next t

/-- 40_control.md R113: NOP is accepted whatever READY is, clears BUSY and does nothing else. While BUSY = 1 it raises
BUSY_VIOLATION. -/
def Obligations.NopOnlyClearsBusy : Prop :=
  encode .nop = 0x0000 ∧
  ∀ s : State, exec .nop s = .next { s with busy := false } ∧
    (s.fault = false → s.busy = false →
      hostMove (.write 0x0 0x0000) s =
        .next { s with latched := ⟨s.arg, s.color⟩, busy := true, current := .nop }) ∧
    (s.fault = false → s.busy = true →
      hostMove (.write 0x0 0x0000) s = .next (raiseFault .busyViolation s))

/-- R112: INIT is accepted whatever READY is, and acts by the outcome it draws. On `ok`, C (and S with DOUBLE_BUFFER) is all zero, READY 1 and INIT_FAIL 0; on
`fail`, READY 0 and INIT_FAIL 1, and no byte is observable; both clear the box registers and BUSY. Nothing else changes but the
model's own record of draws: COLOR, ARG, FAULT, CAUSE and the bus trace stay. -/
def Obligations.InitReportsItsOutcome : Prop :=
  encode .init = 0x0001 ∧
  (∀ s : State, s.fault = false → s.busy = false →
    hostMove (.write 0x0 0x0001) s =
      .next { s with latched := ⟨s.arg, s.color⟩, busy := true, current := .init }) ∧
  ∀ s : State, ∃ t : State, exec .init s = .next t ∧
    t = { s with
      canvas := t.canvas, shadow := t.shadow, ready := t.ready, initFail := t.initFail, busy := false,
      bboxValid := false, bbox := ⟨0x00, 0x00, 0x00, 0x00⟩,
      initOutcomes := t.initOutcomes, initDraws := t.initDraws } ∧
    (initOutcome s = true →
      t.ready = true ∧ t.initFail = false ∧ (∀ a : Nat, Memory.read t.canvas a = 0x00) ∧
      (s.cfg.doubleBuffer = true → ∀ a : Nat, Memory.read t.shadow a = 0x00)) ∧
    (initOutcome s = false →
      t.ready = false ∧ t.initFail = true ∧
      ∀ i : Fin 1024, debugCanvas t i = .refused .debugReadNotReady ∧ ∀ u : State, debugShadow t i ≠ .next u) ∧
    (s.cfg.doubleBuffer = false → t.shadow = s.shadow)

/-- 41_pixel_buffer.md R121: CLEAR zeroes every canvas byte under every colour, and changes nothing else but BUSY. -/
def Obligations.ClearZeroesTheCanvas : Prop :=
  encode .clear = 0x0002 ∧
  ∀ s : State, ∃ c : Memory, exec .clear s = .next { s with canvas := c, busy := false } ∧
    ∀ a : Nat, Memory.read c a = 0x00

/-- R122: SETPIXEL composes the pixel its operands name, if it is in the canvas; nothing else changes but BUSY. -/
def Obligations.SetPixelComposesOnePixel : Prop :=
  encode .setpixel = 0x0003 ∧
  ∀ s : State, ∃ c : Memory, exec .setpixel s = .next { s with canvas := c, busy := false } ∧
    composed s.latched.color (fun px py => px = s.latched.s16 0 ∧ py = s.latched.s16 1) s.canvas c

/-- R122 (the source's XOR involution): INVERT SETPIXEL twice on one pixel restores every byte. -/
def Obligations.InvertSetPixelTwiceRestores : Prop :=
  ∀ s : State, s.latched.color = .invert →
    ∃ t u : State, exec .setpixel s = .next t ∧ exec .setpixel t = .next u ∧
      ∀ a : Nat, Memory.read u.canvas a = Memory.read s.canvas a

/-- R123: HLINE composes exactly the in-canvas pixels of its row span; nothing else changes but BUSY. -/
def Obligations.HLineComposesItsSpan : Prop :=
  encode .hline = 0x0004 ∧
  ∀ s : State, ∃ c : Memory, exec .hline s = .next { s with canvas := c, busy := false } ∧
    composed s.latched.color (onHLine (s.latched.s16 0) (s.latched.s16 1) (s.latched.s16 2)) s.canvas c

/-- R124: VLINE, by its partial and full bytes, composes exactly the in-canvas pixels of its column span; nothing else
changes but BUSY. -/
def Obligations.VLineComposesItsSpan : Prop :=
  encode .vline = 0x0005 ∧
  ∀ s : State, ∃ c : Memory, exec .vline s = .next { s with canvas := c, busy := false } ∧
    composed s.latched.color (onVLine (s.latched.s16 0) (s.latched.s16 1) (s.latched.s16 2)) s.canvas c

/-- R125: VLINE leaves the same canvas as composing each pixel (x, r), r from max(y, 0) to min(y + len, 64) - 1, one
at a time, for a column in the canvas. -/
def Obligations.VLineEqualsPixelByPixel : Prop :=
  ∀ s : State, 0 ≤ s.latched.s16 0 → s.latched.s16 0 < 128 →
    ∃ c : Memory, exec .vline s = .next { s with canvas := c, busy := false } ∧
      ∀ a : Nat, Memory.read c a =
        Memory.read
          ((intRange (max (s.latched.s16 1) 0) (min (s.latched.s16 1 + s.latched.s16 2) 64 - 1)).foldl
            (fun c r => composePixel s.latched.color c (s.latched.s16 0) r) s.canvas) a

/-- R126: RECT composes each in-canvas pixel once for each of its four edges that covers it: under SET and CLEAR as one
composition, under INVERT toggled when an odd number of edges covers it. Malformed geometry draws nothing. -/
def Obligations.RectComposesFourEdges : Prop :=
  encode .rect = 0x0006 ∧
  ∀ s : State, ∃ c : Memory, exec .rect s = .next { s with canvas := c, busy := false } ∧
    (s.latched.s16 2 ≤ 0 ∨ s.latched.s16 3 ≤ 0 → c = s.canvas) ∧
    (0 < s.latched.s16 2 → 0 < s.latched.s16 3 →
      (∀ px py : Int, inCanvas px py = true →
        let n := edgeCover (s.latched.s16 0) (s.latched.s16 1) (s.latched.s16 2) (s.latched.s16 3) px py
        pixel c px py = match s.latched.color with
          | .set => pixel s.canvas px py || decide (0 < n)
          | .clear => pixel s.canvas px py && decide (n = 0)
          | .invert => xor (pixel s.canvas px py) (decide (n % 2 = 1))) ∧
      ∀ a : Nat, 1024 ≤ a → Memory.read c a = Memory.read s.canvas a)

/-- R127: FILLRECT composes exactly the in-canvas pixels of its rectangle, each once; nothing else changes but BUSY. -/
def Obligations.FillRectComposesItsArea : Prop :=
  encode .fillrect = 0x0007 ∧
  ∀ s : State, ∃ c : Memory, exec .fillrect s = .next { s with canvas := c, busy := false } ∧
    composed s.latched.color
      (inRect (s.latched.s16 0) (s.latched.s16 1) (s.latched.s16 2) (s.latched.s16 3)) s.canvas c

/-- R128: the clipping laws of the five figure commands. (1) Only in-canvas pixels of the figure change, and (4) no
address outside the canvas; (2) if no pixel of the figure is in the canvas, every byte is unchanged; (3) SET only turns
bits on, CLEAR only off, and INVERT toggles a pixel that the figure covers an odd number of times. -/
def Obligations.ClippingLaws : Prop :=
  ∀ (i : Instr) (s : State), namesFigure i →
    ∃ c : Memory, exec i s = .next { s with canvas := c, busy := false } ∧
      (∀ px py : Int, inCanvas px py = true → cover i s.latched px py = 0 → pixel c px py = pixel s.canvas px py) ∧
      (∀ a : Nat, 1024 ≤ a → Memory.read c a = Memory.read s.canvas a) ∧
      ((∀ px py : Int, inCanvas px py = true → cover i s.latched px py = 0) →
        ∀ a : Nat, Memory.read c a = Memory.read s.canvas a) ∧
      (s.latched.color = .set → ∀ px py : Int, inCanvas px py = true →
        pixel s.canvas px py = true → pixel c px py = true) ∧
      (s.latched.color = .clear → ∀ px py : Int, inCanvas px py = true →
        pixel s.canvas px py = false → pixel c px py = false) ∧
      (s.latched.color = .invert → ∀ px py : Int, inCanvas px py = true →
        pixel c px py = xor (pixel s.canvas px py) (decide (cover i s.latched px py % 2 = 1)))

/-- 20_memory.md R66: Compose at an index of the canvas is OR, AND-NOT or XOR of its byte; every other byte is as
before, and an empty mask changes nothing. -/
def Obligations.ComposeActsOnOneByte : Prop :=
  ∀ (c : Memory) (i : Int) (m : Byte), 0 ≤ i → i < 1024 →
    Memory.read (compose .set c i m) i.toNat = Memory.read c i.toNat ||| m ∧
    Memory.read (compose .clear c i m) i.toNat = Memory.read c i.toNat &&& ~~~m ∧
    Memory.read (compose .invert c i m) i.toNat = Memory.read c i.toNat ^^^ m ∧
    (∀ (col : Color) (a : Nat), a ≠ i.toNat → Memory.read (compose col c i m) a = Memory.read c a) ∧
    ∀ (col : Color) (a : Nat), Memory.read (compose col c i 0x00) a = Memory.read c a

/-- 42_blit.md R147: Compose acts lane by lane, and the shifts move lanes within a byte and never wrap. -/
def Obligations.LanesAreIndependent : Prop :=
  (∀ (col : Color) (c : Memory) (i : Int) (m : Byte) (k : Nat), 0 ≤ i → i < 1024 → k < 8 →
    (Memory.read (compose col c i m) i.toNat).getLsbD k =
      match col with
      | .set => (Memory.read c i.toNat).getLsbD k || m.getLsbD k
      | .clear => (Memory.read c i.toNat).getLsbD k && !m.getLsbD k
      | .invert => xor ((Memory.read c i.toNat).getLsbD k) (m.getLsbD k)) ∧
  ∀ (b : Byte) (s k : Nat), k < 8 →
    (b <<< s).getLsbD k = (if s ≤ k then b.getLsbD (k - s) else false) ∧
    (b >>> s).getLsbD k = (if k + s < 8 then b.getLsbD (k + s) else false)

/-- R128 item 4, 20_memory.md R61: an access outside [0, 1024) is never made: every drawing command leaves every
address outside the canvas alone, and keeps the canvas in canonical form. So do INIT and SYNC. -/
def Obligations.DrawingStaysInsideTheCanvas : Prop :=
  ∀ (i : Instr) (s t : State), exec i s = .next t → Memory.wf 1024 s.canvas = true →
    Memory.wf 1024 t.canvas = true ∧ ∀ a : Nat, 1024 ≤ a → Memory.read t.canvas a = Memory.read s.canvas a

/-- 42_blit.md R141, R142: BLIT. With w < 0 or h ≤ 0 it draws nothing. Otherwise, when the source bytes it reads are
not all below SRC_SIZE (20_memory.md R79), it raises SOURCE_RANGE with C unchanged. Otherwise it composes exactly the
in-canvas pixels (x + i div rh, y + 8·(i mod rh) + k) whose source bit is 1, each once, and changes nothing else but
BUSY. -/
def Obligations.BlitComposesItsSetBits : Prop :=
  encode .blit = 0x0008 ∧
  ∀ s : State,
    let l := s.latched
    let base := l.u16 5 * 65536 + l.u16 4 + l.u16 6
    (l.s16 2 < 0 ∨ l.s16 3 ≤ 0 → exec .blit s = .next { s with busy := false }) ∧
    (0 ≤ l.s16 2 → 0 < l.s16 3 → l.u16 7 ≠ 0 → (s.cfg.srcSize : Int) < base + l.u16 7 →
      exec .blit s = .next (raiseFault .sourceRange s) ∧ (raiseFault .sourceRange s).canvas = s.canvas) ∧
    (0 ≤ l.s16 2 → 0 < l.s16 3 → l.u16 7 = 0 ∨ base + l.u16 7 ≤ (s.cfg.srcSize : Int) →
      ∃ c : Memory, exec .blit s = .next { s with canvas := c, busy := false } ∧
        composed l.color
          (onBlit s.src (l.s16 0) (l.s16 1) (ceil8 (l.s16 3)) base (l.u16 7).toNat) s.canvas c)

/-- R142, the source's glyph scenario: on an all-zero canvas, a BLIT under SET and then the same BLIT under INVERT
return the canvas to all zero. -/
def Obligations.BlitSetThenInvertClears : Prop :=
  ∀ s : State, 0 ≤ s.latched.s16 2 → 0 < s.latched.s16 3 →
    (s.latched.u16 7 = 0 ∨ s.latched.srcBase + s.latched.u16 6 + s.latched.u16 7 ≤ (s.cfg.srcSize : Int)) →
    s.latched.color = .set → (∀ a : Nat, Memory.read s.canvas a = 0x00) →
    ∃ t u : State, exec .blit s = .next t ∧ exec .blit { t with latched := ⟨t.latched.arg, .invert⟩ } = .next u ∧
      ∀ a : Nat, Memory.read u.canvas a = 0x00

/-- 42_blit.md R145, R146: BLITROW. With w ≤ 0 or h ≤ 0 it draws nothing. Otherwise, when its ceil8(w·h) source bytes
are not all below SRC_SIZE (20_memory.md R79), it raises SOURCE_RANGE with C unchanged. Otherwise it composes exactly the
in-canvas pixels (x + k mod w, y + k div w) whose stream bit is 1, each once, and changes nothing else but BUSY. -/
def Obligations.BlitRowComposesItsSetBits : Prop :=
  encode .blitrow = 0x0009 ∧
  ∀ s : State,
    let l := s.latched
    let base := l.u16 5 * 65536 + l.u16 4
    let n := l.s16 2 * l.s16 3
    (l.s16 2 ≤ 0 ∨ l.s16 3 ≤ 0 → exec .blitrow s = .next { s with busy := false }) ∧
    (0 < l.s16 2 → 0 < l.s16 3 → (s.cfg.srcSize : Int) < base + ceil8 n →
      exec .blitrow s = .next (raiseFault .sourceRange s) ∧ (raiseFault .sourceRange s).canvas = s.canvas) ∧
    (0 < l.s16 2 → 0 < l.s16 3 → base + ceil8 n ≤ (s.cfg.srcSize : Int) →
      ∃ c : Memory, exec .blitrow s = .next { s with canvas := c, busy := false } ∧
        composed l.color (onBlitRow s.src (l.s16 0) (l.s16 1) (l.s16 2) base n.toNat) s.canvas c)

/-- 10_state.md R42: acceptance copies ARG and COLOR into L; every unit step reads only L, never the live registers
(other values in them change nothing in what the step does); and no register read shows L. -/
def Obligations.CommandsReadOnlyLatchedOperands : Prop :=
  (∀ (i : Instr) (s : State), (accept i s).latched = ⟨s.arg, s.color⟩) ∧
  (∀ (i : Instr) (s t : State) (a : Vector Word 8) (col : Color), exec i s = .next t →
    exec i { s with arg := a, color := col } = .next { t with arg := a, color := col } ∧
    t.arg = s.arg ∧ t.color = s.color ∧ t.latched = s.latched) ∧
  ∀ (s : State) (l : Latched) (off : BitVec 4), regRead { s with latched := l } off = regRead s off

/-! ### SYNC -/

/-- 43_sync.md R160: the acceptance of SYNC, with and without DOUBLE_BUFFER. The fields of SEQ that R160 does not name are as
they were (log 5). -/
def Obligations.SyncAcceptanceStartsItsFirstPhase : Prop :=
  encode .sync = 0x000A ∧
  ∀ s : State, s.fault = false → s.busy = false → s.ready = true →
    hostMove (.write 0x0 0x000A) s =
      .next (if s.cfg.doubleBuffer = true then
        { s with
          latched := ⟨s.arg, s.color⟩, busy := true, current := .sync, syncState := .scanning,
          seq := { s.seq with phase := .scan, scanPage := 0, found := false } }
      else
        { s with
          latched := ⟨s.arg, s.color⟩, busy := true, current := .sync, syncState := .transmitting,
          seq := { s.seq with phase := .setup, minCol := 0, maxCol := 127, minPage := 0, maxPage := 7 },
          bbox := ⟨0, 127, 0, 7⟩, bboxValid := true })

/-- R162, R163, R164: a scan step. It copies its page of C into S, whether or not it differed, and no other byte of S; it
emits nothing, widens the running box to exactly the columns of the page that differed, and goes on to the next page.
Before the last page nothing else changes. After it the scan ends: with BBOX_VALID 0 and the box registers as they were
if nothing was found, and otherwise on to transmitting with the box reported. -/
def Obligations.ScanStepCopiesItsPage : Prop :=
  ∀ s : State, s.seq.phase = .scan → s.seq.scanPage < 8 →
    ∃ t : State, exec .sync s = .next t ∧
      t = { s with
        shadow := t.shadow, seq := t.seq, busy := t.busy, syncState := t.syncState,
        bboxValid := t.bboxValid, bbox := t.bbox } ∧
      (∀ a : Nat, a / 128 = s.seq.scanPage → Memory.read t.shadow a = Memory.read s.canvas a) ∧
      (∀ a : Nat, a / 128 ≠ s.seq.scanPage → Memory.read t.shadow a = Memory.read s.shadow a) ∧
      t.seq.scanPage = s.seq.scanPage + 1 ∧ t.seq.txPage = s.seq.txPage ∧
      boxGrows s.seq t.seq s.seq.scanPage (differsAt s.canvas s.shadow s.seq.scanPage) ∧
      (s.seq.scanPage < 7 →
        t.seq.phase = .scan ∧ t.busy = s.busy ∧ t.syncState = s.syncState ∧ t.bboxValid = s.bboxValid ∧
        t.bbox = s.bbox) ∧
      (s.seq.scanPage = 7 → t.seq.found = false →
        t.seq.phase = .scan ∧ t.busy = false ∧ t.syncState = .idle ∧ t.bboxValid = false ∧ t.bbox = s.bbox) ∧
      (s.seq.scanPage = 7 → t.seq.found = true →
        t.seq.phase = .setup ∧ t.busy = s.busy ∧ t.syncState = .transmitting ∧ boxReported t)

/-- R164: the eight scan steps of a SYNC, taken with no host turn to come (an empty list of turns, log 1). If no byte of C and S differed, the SYNC ends with BBOX_VALID 0, the box
registers as they were and no bus event. Otherwise the box registers hold the smallest box of pages and columns that
holds every byte that differed, and transmitting begins. S ends equal to C in every case, and C is unchanged. -/
def Obligations.ScanFindsTheSmallestBox : Prop :=
  ∀ s : State, s.turns = [] → s.busy = true → s.fault = false → s.current = .sync →
    s.seq.phase = .scan → s.seq.scanPage = 0 → s.seq.found = false →
    ∃ t : State, run 8 s = .next t ∧ t.canvas = s.canvas ∧ t.bus = s.bus ∧
      (∀ a : Nat, a < 1024 → Memory.read t.shadow a = Memory.read s.canvas a) ∧
      ((∀ a : Nat, a < 1024 → Memory.read s.canvas a = Memory.read s.shadow a) →
        t.busy = false ∧ t.syncState = .idle ∧ t.bboxValid = false ∧ t.bbox = s.bbox) ∧
      ((∃ a : Nat, a < 1024 ∧ Memory.read s.canvas a ≠ Memory.read s.shadow a) →
        t.busy = true ∧ t.syncState = .transmitting ∧ t.seq.phase = .setup ∧ t.bboxValid = true ∧
        t.bbox = ⟨BitVec.ofNat 8 t.seq.minCol, BitVec.ofNat 8 t.seq.maxCol,
          BitVec.ofNat 8 t.seq.minPage, BitVec.ofNat 8 t.seq.maxPage⟩ ∧
        t.seq.maxCol < 128 ∧ t.seq.maxPage < 8 ∧
        (∀ a : Nat, a < 1024 → Memory.read s.canvas a ≠ Memory.read s.shadow a →
          t.seq.minCol ≤ a % 128 ∧ a % 128 ≤ t.seq.maxCol ∧ t.seq.minPage ≤ a / 128 ∧ a / 128 ≤ t.seq.maxPage) ∧
        (∃ a : Nat, a < 1024 ∧ Memory.read s.canvas a ≠ Memory.read s.shadow a ∧ a % 128 = t.seq.minCol) ∧
        (∃ a : Nat, a < 1024 ∧ Memory.read s.canvas a ≠ Memory.read s.shadow a ∧ a % 128 = t.seq.maxCol) ∧
        (∃ a : Nat, a < 1024 ∧ Memory.read s.canvas a ≠ Memory.read s.shadow a ∧ a / 128 = t.seq.minPage) ∧
        ∃ a : Nat, a < 1024 ∧ Memory.read s.canvas a ≠ Memory.read s.shadow a ∧ a / 128 = t.seq.maxPage)

/-- R171 item 1: with DOUBLE_BUFFER, a SYNC that is issued when S holds the same bytes as C, with no host turn to come (an
empty list of turns, log 1), takes eight unit steps, emits no bus event, and ends with BBOX_VALID 0. -/
def Obligations.SyncOfUnchangedCanvasIsSilent : Prop :=
  ∀ s : State, s.turns = [] → s.cfg.doubleBuffer = true → s.ready = true → s.fault = false → s.busy = false →
    (∀ a : Nat, a < 1024 → Memory.read s.shadow a = Memory.read s.canvas a) →
    ∃ t : State, run 8 (regWrite s 0x0 0x000A) = .next t ∧
      t.busy = false ∧ t.syncState = .idle ∧ t.bboxValid = false ∧ t.bbox = s.bbox ∧ t.bus = s.bus ∧
      t.canvas = s.canvas ∧ ∀ a : Nat, a < 1024 → Memory.read t.shadow a = Memory.read s.shadow a

/-- R169: one display register write is three transactions of the command-mode marker and one byte: the register's
command byte, then its two values. One setup is 6 transactions and 12 `BusWrite` events. -/
def Obligations.DisplayRegisterWriteEvents : Prop :=
  (∀ (g : Config) (cmd : Byte) (a b : Nat),
    displayRegWrite g cmd a b =
      [.begin g.displayAddr, .write g.cmdModeMarker, .write cmd, .finish,
        .begin g.displayAddr, .write g.cmdModeMarker, .write (BitVec.ofNat 8 a), .finish,
        .begin g.displayAddr, .write g.cmdModeMarker, .write (BitVec.ofNat 8 b), .finish]) ∧
  ∀ (g : Config) (q : Seq), busBegins (setupEvents g q) = 6 ∧ busWrites (setupEvents g q) = 12

/-- R165, R166: a transmit step emits the setup (first step only: the column register, then the page register) and then one
page of the box, cut into packets of at most 16 payload bytes, none spanning two pages; it then goes on to the next
page or ends the SYNC. -/
def Obligations.TransmitStepSendsPackets : Prop :=
  ∀ s : State, s.seq.phase ≠ .scan →
    ∃ t : State, exec .sync s = .next t ∧
      let p := if s.seq.phase = .setup then s.seq.minPage else s.seq.txPage
      t.bus = s.bus ++
        (if s.seq.phase = .setup then
          displayRegWrite s.cfg s.cfg.colAddrCmd s.seq.minCol s.seq.maxCol
            ++ displayRegWrite s.cfg s.cfg.pageAddrCmd s.seq.minPage s.seq.maxPage
        else []) ++
        packetize s.cfg (boxRow s.canvas p s.seq.minCol s.seq.maxCol) ∧
      t.seq = { s.seq with phase := .tx, txPage := p + 1 } ∧
      (if s.seq.maxPage < p + 1 then t.busy = false ∧ t.syncState = .idle
        else t.busy = s.busy ∧ t.syncState = s.syncState) ∧
      t = { s with bus := t.bus, seq := t.seq, busy := t.busy, syncState := t.syncState }

/-- R168: without DOUBLE_BUFFER a SYNC, with no host turn to come (an empty list of turns, log 1), takes eight unit steps
from acceptance and sends the full canvas: the setup of
columns 0 to 127 and pages 0 to 7, then all eight pages, whatever the canvas holds; the box registers report the full
extent. -/
def Obligations.UnbufferedSyncSendsTheFullCanvas : Prop :=
  ∀ s : State, s.turns = [] → s.cfg.doubleBuffer = false → s.ready = true → s.fault = false → s.busy = false →
    ∃ t : State, run 8 (regWrite s 0x0 0x000A) = .next t ∧ t.busy = false ∧ t.syncState = .idle ∧
      t.bus = s.bus ++ displayRegWrite s.cfg s.cfg.colAddrCmd 0 127 ++ displayRegWrite s.cfg s.cfg.pageAddrCmd 0 7 ++
        (List.range 8).flatMap (fun p =>
          packetize s.cfg ((List.range 128).map (fun k => Memory.read s.canvas (k + p * 128)))) ∧
      bboxColWord t = 0x7F00 ∧ bboxPageWord t = 0x0700 ∧ t.bboxValid = true ∧ t.canvas = s.canvas

/-- R171 item 2: the cost of a box of W columns and Hp pages: 6 setup transactions and Hp·ceil(W/16) packets, and
12 + Hp·ceil(W/16) + W·Hp `BusWrite` events, over its Hp transmit steps, after which the SYNC has ended. No host turn is
to come (an empty list of turns, log 1). -/
def Obligations.TransmissionCost : Prop :=
  ∀ s : State, s.turns = [] → s.busy = true → s.fault = false → s.current = .sync → s.seq.phase = .setup →
    s.seq.minCol ≤ s.seq.maxCol → s.seq.minPage ≤ s.seq.maxPage →
    ∃ t : State, run (s.seq.maxPage + 1 - s.seq.minPage) s = .next t ∧ t.busy = false ∧
      let w := s.seq.maxCol + 1 - s.seq.minCol
      let hp := s.seq.maxPage + 1 - s.seq.minPage
      busBegins t.bus = busBegins s.bus + (6 + hp * ((w + 15) / 16)) ∧
      busWrites t.bus = busWrites s.bus + (12 + hp * ((w + 15) / 16) + w * hp)

/-- R171 item 4: SYNC never changes C, COLOR or ARG. It writes S, SEQ, BUSY, SYNC_STATE, the box registers and the bus
trace only. -/
def Obligations.SyncNeverChangesTheCanvas : Prop :=
  ∀ s : State, ∃ t : State, exec .sync s = .next t ∧
    t = { s with
      shadow := t.shadow, seq := t.seq, busy := t.busy, syncState := t.syncState,
      bboxValid := t.bboxValid, bbox := t.bbox, bus := t.bus }

/-! ### Steps and runs -/

/-- R215, R39: the unit's turn runs the command in progress when a unit step is enabled; a host turn is that one host move.
The model's choices: which turn is next is the list of turns, and with an empty list it is the unit's (log 1); a unit
turn with no enabled step changes nothing (log 19). -/
def Obligations.StepRunsTheAgentInTurn : Prop :=
  ∀ (s : State) (rest : List Turn) (m : HostMove),
    (s.turns = [] → s.busy = true → s.fault = false → step s = exec s.current s) ∧
    (s.turns = .unit :: rest → s.busy = true → s.fault = false →
      step s = exec s.current { s with turns := rest }) ∧
    (s.turns = [] → s.busy = false ∨ s.fault = true → step s = .next s) ∧
    (s.turns = .unit :: rest → s.busy = false ∨ s.fault = true → step s = .next { s with turns := rest }) ∧
    (s.turns = .host m :: rest → step s = hostMove m { s with turns := rest })

/-- R39, R202, R215: when the host writes to CMD a word that decodes to command i, which may be issued, and the unit has the
next turn, the two steps are the acceptance and then exec of i. -/
def Obligations.IssuedWordRunsItsCommand : Prop :=
  ∀ (s : State) (w : Word) (i : Instr) (rest : List Turn),
    s.turns = .host (.write 0x0 w) :: .unit :: rest → decode? w = some i → s.fault = false → s.busy = false →
    (s.ready = true ∨ i = .nop ∨ i = .init) →
    ∃ t : State, step s = .next t ∧ t.current = i ∧ t.busy = true ∧ t.latched = ⟨s.arg, s.color⟩ ∧
      step t = exec i { t with turns := rest }

/-- The model's placement of a table word (log 12): the next step is exec of its command, accepted from the live operands. -/
def Obligations.PlacedWordRunsNext : Prop :=
  ∀ (s : State) (i : Instr),
    step (s.withFetchWord 16 (encode i).toNat) = exec i (accept i { s with fault := false, cause := .none })

/-- 10_state.md R30, R32, R34, R42, R43, R45, R62: who writes what. A step that changes a piece of state is one of the steps
the spec names for it. (R34 says SYNC alone writes BBOX_VALID and SYNC_STATE; R112 and R203 add INIT and the fault latch,
log 13.) The command in progress is set at acceptance only (log 2), and INIT alone draws an outcome (log 7). -/
def Obligations.OnlyNamedStepsWriteEachState : Prop :=
  ∀ s t : State, step s = .next t → ¬ hostMoves s .reset →
    t.cfg = s.cfg ∧
    (t.ready ≠ s.ready ∨ t.initFail ≠ s.initFail → unitRuns s .init) ∧
    (s.busy = false → t.busy = true → ∃ i : Instr, commandAccepted s i) ∧
    (s.busy = true → t.busy = false → (∃ i : Instr, unitRuns s i) ∨ t.fault = true) ∧
    (t.fault ≠ s.fault ∨ t.cause ≠ s.cause →
      s.fault = false ∧ t.fault = true ∧
        ((∃ v : Word, hostMoves s (.write 0x0 v) ∨ hostMoves s (.write 0x2 v)) ∨
          unitRuns s .blit ∨ unitRuns s .blitrow)) ∧
    (t.latched ≠ s.latched ∨ t.current ≠ s.current →
      ∃ i : Instr, commandAccepted s i ∧ t.current = i ∧ t.latched = ⟨s.arg, s.color⟩) ∧
    (t.seq ≠ s.seq → unitRuns s .sync ∨ syncAccepted s) ∧
    (t.bboxValid ≠ s.bboxValid ∨ t.bbox ≠ s.bbox → unitRuns s .init ∨ unitRuns s .sync ∨ syncAccepted s) ∧
    (t.syncState ≠ s.syncState → unitRuns s .sync ∨ syncAccepted s ∨ t.fault = true) ∧
    (t.canvas ≠ s.canvas → ∃ i : Instr, i ≠ .nop ∧ i ≠ .sync ∧ unitRuns s i) ∧
    (t.shadow ≠ s.shadow → unitRuns s .init ∨ unitRuns s .sync) ∧
    (t.bus ≠ s.bus → unitRuns s .sync) ∧
    (t.arg ≠ s.arg → ∃ (n : Fin 8) (v : Word), hostMoves s (.write (BitVec.ofNat 4 (8 + n.val)) v)) ∧
    (t.color ≠ s.color → ∃ v : Word, hostMoves s (.write 0x2 v)) ∧
    (t.src ≠ s.src → ∃ (a : Nat) (b : Byte), hostMoves s (.storeSource a b)) ∧
    (t.initOutcomes ≠ s.initOutcomes ∨ t.initDraws ≠ s.initDraws → unitRuns s .init) ∧
    (t.replies ≠ s.replies →
      (∃ off : BitVec 4, hostMoves s (.read off)) ∨ hostMoves s .waitIdle ∨
        ∃ i : Fin 1024, hostMoves s (.debugCanvas i) ∨ hostMoves s (.debugShadow i))

/-- 10_state.md R40, R41, 93_implementation_defined.md U5: before a successful INIT the contents of C and S are not
observable. Two states that differ only in them, with READY = 0 and no command in progress but NOP or INIT, take steps
that answer alike and differ only in them again; and if the step makes READY 1, the canvases are equal (and the shadows
with DOUBLE_BUFFER). -/
def Obligations.ContentsBeforeInitAreUnobservable : Prop :=
  ∀ (s : State) (c d : Memory), s.ready = false → (s.busy = true → s.current = .nop ∨ s.current = .init) →
    match step s, step { s with canvas := c, shadow := d } with
    | .next t, .next u =>
      u = { t with canvas := u.canvas, shadow := u.shadow } ∧
        (t.ready = true → u.canvas = t.canvas ∧ (s.cfg.doubleBuffer = true → u.shadow = t.shadow))
    | .fault r, .fault r' => r = r'
    | .refused r, .refused r' => r = r'
    | .next _, .fault _ => False
    | .next _, .refused _ => False
    | .fault _, .next _ => False
    | .fault _, .refused _ => False
    | .refused _, .next _ => False
    | .refused _, .fault _ => False

/-- The invariant of a run holds right after reset, for every configuration whose SRC_SIZE R7 allows. -/
def Obligations.InvariantHoldsAtReset : Prop :=
  State.Inv State.reset ∧ ∀ g : Config, g.wf = true → State.Inv (State.resetWith g)

/-- Every step keeps the invariant of a run: canonical memory, consistent status, a consistent sequencer, whole bus
transactions. That a reset falls between steps is the model's choice (log 20). -/
def Obligations.EveryStepKeepsTheInvariant : Prop :=
  ∀ s t : State, State.Inv s → step s = .next t → State.Inv t

/-- Every step keeps all three stores in canonical form, in a state whose scan page is a page of the canvas. -/
def Obligations.EveryStepKeepsMemoryCanonical : Prop :=
  ∀ s t : State, memInv s → s.seq.scanPage < 8 ∨ s.seq.phase ≠ .scan → step s = .next t → memInv t

/-- 60_exceptions.md R203, R213: no step, and so no fault, leaves a bus transaction open. That a reset falls between steps is
the model's choice (log 20). -/
def Obligations.EveryStepEndsItsTransactions : Prop :=
  ∀ s t : State, busClosed s.bus → step s = .next t → busClosed t.bus

/-- R215, R161: from any state of a run with a command in progress, the unit ends the command in at most 16 of its steps,
when no host turn is to come (an empty list of turns, log 1). -/
def Obligations.EveryCommandEndsWithinSixteenSteps : Prop :=
  ∀ s : State, State.Inv s → s.turns = [] → s.busy = true →
    ∃ (k : Nat) (t : State), k ≤ 16 ∧ run k s = .next t ∧ t.busy = false

/-- 30_encoding.md R101 `waitidle` (with the model's choice of alternation, log 11): one poll reads STATUS; the loop ends after it if
bit 1 reads 0, and otherwise the unit has a turn and the host polls again. -/
def Obligations.WaitIdlePollsStatus : Prop :=
  ∀ (s : State) (rest : List Turn), s.turns = .host .waitIdle :: rest →
    step s = .next { s with
      replies := s.replies ++ [.register 0x1 (statusWord s)],
      turns := if (statusWord s).getLsbD 1 then .unit :: .host .waitIdle :: rest else rest }

/-- The poll loop ends, with BUSY = 0, from every state of a run (R215's fairness, log 11). -/
def Obligations.WaitIdleEnds : Prop :=
  ∀ (s : State) (rest : List Turn), State.Inv s → s.turns = .host .waitIdle :: rest →
    ∃ (k : Nat) (t : State), k ≤ 33 ∧ run k s = .next t ∧ t.turns = rest ∧ t.busy = false

/-- 40_control.md R116: each INIT draws afresh, whatever earlier INITs drew, and the state after an INIT depends on its
outcome, DOUBLE_BUFFER and the registers INIT does not write only: not on C, READY, INIT_FAIL, BUSY or the box before it,
and with DOUBLE_BUFFER not on S. Where the draws stand (the list of coming draws, and the free value at the number of
draws when it is empty) is the model's choice (log 7). -/
def Obligations.EachInitDrawsAfresh : Prop :=
  (∀ s : State, ∃ t : State, exec .init s = .next t ∧ t.initFail = !initOutcome s ∧
    t.initDraws = s.initDraws + 1 ∧ t.initOutcomes = s.initOutcomes.tail ∧
    (∀ (o : Bool) (os : List Bool), s.initOutcomes = o :: os → initOutcome s = o ∧ t.initOutcomes = os) ∧
    (s.initOutcomes = [] → initOutcome s = Config.initOutcome s.initDraws)) ∧
  ∀ (s : State) (c d : Memory) (r f b v : Bool) (box : BBox),
    let u : State := { s with
      canvas := c, shadow := d, ready := r, initFail := f, busy := b, bboxValid := v, bbox := box }
    (s.cfg.doubleBuffer = true → exec .init u = exec .init s) ∧
    (s.cfg.doubleBuffer = false → ∃ t : State, exec .init s = .next t ∧ exec .init u = .next { t with shadow := d })
end

