-- ==== Sys2Proof/Laws/Memory.lean ====
section
/-!
SUPPORT. The laws of byte stores: read after write, the canonical form and that writing keeps it, and that a store in
canonical form is determined by its reads.
-/

namespace Sys2Proof.Machine

@[simp] theorem Memory.read_nil (a : Nat) : Memory.read [] a = unlistedByte := rfl

theorem Memory.read_cons (k : Nat) (b : Byte) (m : Memory) (a : Nat) :
    Memory.read ((k, b) :: m) a = if k = a then b else Memory.read m a := rfl

/-- An address that no cell lists reads as an unlisted byte. -/
theorem Memory.read_of_not_listed {m : Memory} {a : Nat} (h : ∀ c ∈ m, c.1 ≠ a) : Memory.read m a = unlistedByte := by
  induction m with
  | nil => rfl
  | cons c m ih =>
    obtain ⟨k, b⟩ := c
    rw [Memory.read_cons, if_neg (h (k, b) (by simp))]
    exact ih fun c hc => h c (by simp [hc])

theorem Memory.not_listed_erase (m : Memory) (a : Nat) : ∀ c ∈ m.erase a, c.1 ≠ a := by
  intro c hc
  simpa using (List.mem_filter.mp hc).2

theorem Memory.read_erase (m : Memory) (a b : Nat) :
    Memory.read (m.erase a) b = if b = a then unlistedByte else Memory.read m b := by
  by_cases hb : b = a
  · subst hb
    simpa using Memory.read_of_not_listed (Memory.not_listed_erase m b)
  · rw [if_neg hb]
    induction m with
    | nil => rfl
    | cons c m ih =>
      obtain ⟨k, v⟩ := c
      by_cases hk : k = a
      · subst hk
        simpa [Memory.erase, Memory.read_cons, Ne.symm hb] using ih
      · by_cases hkb : k = b
        · simp [Memory.erase, Memory.read_cons, hkb, hb]
        · simpa [Memory.erase, Memory.read_cons, hk, hkb] using ih

theorem Memory.read_insert {m : Memory} {a : Nat} (h : ∀ c ∈ m, c.1 ≠ a) (v : Byte) (b : Nat) :
    Memory.read (m.insert a v) b = if b = a then v else Memory.read m b := by
  induction m with
  | nil =>
    simp only [Memory.insert, Memory.read_cons, eq_comm (a := a)]
  | cons c m ih =>
    obtain ⟨k, w⟩ := c
    have hk : k ≠ a := h (k, w) (by simp)
    have hm := ih fun c hc => h c (by simp [hc])
    unfold Memory.insert
    split
    · simp only [Memory.read_cons, eq_comm (a := a)]
    · by_cases hkb : k = b
      · subst hkb; simp [Memory.read_cons, hk]
      · simp [Memory.read_cons, hkb, hm]

/-- Reading after writing: the written byte at its address, every other byte as before. It needs no canonical form. -/
@[simp] theorem Memory.read_write (m : Memory) (a b : Nat) (v : Byte) :
    Memory.read (m.write a v) b = if b = a then v else Memory.read m b := by
  unfold Memory.write
  split
  · next hv => rw [Memory.read_erase, hv]
  · rw [Memory.read_insert (Memory.not_listed_erase m a), Memory.read_erase]
    split <;> simp_all

/-- The canonical form, unfolded. -/
theorem Memory.wf_iff (size : Nat) (m : Memory) :
    Memory.wf size m = true ↔
      m.Pairwise (fun c d => c.1 < d.1) ∧ ∀ c ∈ m, c.1 < size ∧ c.2 ≠ unlistedByte := by
  simp [Memory.wf]

theorem Memory.wf_nil (size : Nat) : Memory.wf size [] = true := by simp [Memory.wf_iff]

theorem Memory.wf_erase {size : Nat} {m : Memory} (h : Memory.wf size m = true) (a : Nat) :
    Memory.wf size (m.erase a) = true := by
  rw [Memory.wf_iff] at *
  exact ⟨h.1.filter _, fun c hc => h.2 c (List.mem_of_mem_filter hc)⟩

theorem Memory.mem_insert {m : Memory} {a : Nat} {v : Byte} {c : Host.Cell} (h : c ∈ m.insert a v) :
    c = (a, v) ∨ c ∈ m := by
  induction m with
  | nil => exact .inl (by simpa [Memory.insert] using h)
  | cons d m ih =>
    obtain ⟨k, w⟩ := d
    unfold Memory.insert at h
    split at h
    · simpa using h
    · rcases List.mem_cons.mp h with h | h
      · exact .inr (by simp [h])
      · exact (ih h).imp id (fun h => by simp [h])

theorem Memory.wf_insert {size : Nat} {m : Memory} {a : Nat} {v : Byte} (h : Memory.wf size m = true)
    (hm : ∀ c ∈ m, c.1 ≠ a) (ha : a < size) (hv : v ≠ unlistedByte) : Memory.wf size (m.insert a v) = true := by
  rw [Memory.wf_iff] at *
  refine ⟨?_, fun c hc => ?_⟩
  · obtain ⟨hp, -⟩ := h
    induction m with
    | nil => simp [Memory.insert]
    | cons d m ih =>
      obtain ⟨k, w⟩ := d
      have hk : k ≠ a := hm (k, w) (by simp)
      rw [List.pairwise_cons] at hp
      unfold Memory.insert
      split
      · next hlt =>
        refine List.pairwise_cons.mpr ⟨fun c hc => ?_, List.pairwise_cons.mpr hp⟩
        rcases List.mem_cons.mp hc with rfl | hc
        · exact hlt
        · exact Nat.lt_trans hlt (hp.1 c hc)
      · next hlt =>
        refine List.pairwise_cons.mpr ⟨fun c hc => ?_, ih (fun c hc => hm c (by simp [hc])) hp.2⟩
        rcases Memory.mem_insert hc with rfl | hc
        · exact show k < a by omega
        · exact hp.1 c hc
  · rcases Memory.mem_insert hc with rfl | hc
    · exact ⟨ha, hv⟩
    · exact h.2 c hc

/-- Writing inside the store keeps its canonical form. -/
theorem Memory.wf_write {size : Nat} {m : Memory} (h : Memory.wf size m = true) {a : Nat} (ha : a < size) (v : Byte) :
    Memory.wf size (m.write a v) = true := by
  unfold Memory.write
  split
  · exact Memory.wf_erase h a
  · next hv => exact Memory.wf_insert (Memory.wf_erase h a) (Memory.not_listed_erase m a) ha hv

/-- In canonical form nothing is listed at or above the size. -/
theorem Memory.read_of_size_le {size : Nat} {m : Memory} (h : Memory.wf size m = true) {a : Nat} (ha : size ≤ a) :
    Memory.read m a = unlistedByte := by
  rw [Memory.wf_iff] at h
  exact Memory.read_of_not_listed fun c hc => by have := (h.2 c hc).1; omega

theorem Memory.read_of_lt_first {size k : Nat} {b : Byte} {m : Memory} (h : Memory.wf size ((k, b) :: m) = true)
    {a : Nat} (ha : a < k) : Memory.read ((k, b) :: m) a = unlistedByte := by
  rw [Memory.wf_iff, List.pairwise_cons] at h
  refine Memory.read_of_not_listed fun c hc => ?_
  rcases List.mem_cons.mp hc with rfl | hc
  · exact fun e => by simp only at e; omega
  · have := h.1.1 c hc; simp only at this; omega

theorem Memory.wf_tail {size : Nat} {c : Host.Cell} {m : Memory} (h : Memory.wf size (c :: m) = true) :
    Memory.wf size m = true := by
  rw [Memory.wf_iff, List.pairwise_cons] at *
  exact ⟨h.1.2, fun d hd => h.2 d (by simp [hd])⟩

/-- Two stores in canonical form that read the same are the same list. -/
theorem Memory.ext_of_wf {size : Nat} {m n : Memory} (hm : Memory.wf size m = true) (hn : Memory.wf size n = true)
    (h : ∀ a, Memory.read m a = Memory.read n a) : m = n := by
  have listed : ∀ {k : Nat} {b : Byte} {l : Memory}, Memory.wf size ((k, b) :: l) = true → b ≠ unlistedByte :=
    fun {k b l} h => (((Memory.wf_iff _ _).mp h).2 (k, b) (by simp)).2
  induction m generalizing n with
  | nil =>
    cases n with
    | nil => rfl
    | cons d n =>
      obtain ⟨k, b⟩ := d
      have hk := h k
      rw [Memory.read_nil, Memory.read_cons, if_pos rfl] at hk
      exact absurd hk.symm (listed hn)
  | cons c m ih =>
    obtain ⟨k, b⟩ := c
    cases n with
    | nil =>
      have hk := h k
      rw [Memory.read_nil, Memory.read_cons, if_pos rfl] at hk
      exact absurd hk (listed hm)
    | cons d n =>
      obtain ⟨k', b'⟩ := d
      have hkk : k = k' := by
        rcases Nat.lt_trichotomy k k' with hlt | heq | hlt
        · have hk := h k
          rw [Memory.read_of_lt_first hn hlt, Memory.read_cons, if_pos rfl] at hk
          exact absurd hk (listed hm)
        · exact heq
        · have hk := h k'
          rw [Memory.read_of_lt_first hm hlt, Memory.read_cons, if_pos rfl] at hk
          exact absurd hk.symm (listed hn)
      subst hkk
      have hb : b = b' := by have hk := h k; simpa [Memory.read_cons] using hk
      subst hb
      have htail : ∀ a, Memory.read m a = Memory.read n a := by
        intro a
        by_cases ha : k = a
        · subst ha
          rw [Memory.wf_iff, List.pairwise_cons] at hm hn
          rw [Memory.read_of_not_listed fun c hc => ?_, Memory.read_of_not_listed fun c hc => ?_]
          · have := hn.1.1 c hc; simp only at this; omega
          · have := hm.1.1 c hc; simp only at this; omega
        · simpa [Memory.read_cons, ha] using h a
      rw [ih (Memory.wf_tail hm) (Memory.wf_tail hn) htail]

end Sys2Proof.Machine
end

