-- ==== Sys2Proof/Laws/Compose.lean ====
section
/-!
SUPPORT. The laws of Compose, byte by byte and lane by lane, and what every drawing loop made of it keeps: the
canonical form of the canvas and every address outside it.
-/

namespace Sys2Proof.Machine

/-- Compose at an in-range index changes that byte only; out of range it changes nothing. -/
theorem read_compose (col : Color) (c : Memory) (i : Int) (mask : Byte) (a : Nat) :
    Memory.read (compose col c i mask) a =
      if (a : Int) = i ∧ a < 1024 then Color.apply col (Memory.read c a) mask else Memory.read c a := by
  unfold compose
  by_cases hi : 0 ≤ i ∧ i < 1024
  · rw [if_pos hi, Memory.read_write]
    by_cases ha : a = i.toNat
    · rw [if_pos ha, if_pos (by omega), ha]
    · rw [if_neg ha, if_neg (by omega)]
  · rw [if_neg hi, if_neg (by omega)]

/-- Each lane of a byte is composed on its own. -/
theorem getLsbD_apply (col : Color) (b m : Byte) {k : Nat} (hk : k < 8) :
    (Color.apply col b m).getLsbD k = Color.bit col (b.getLsbD k) (m.getLsbD k) := by
  cases col <;> simp [Color.apply, Color.bit, hk]

/-- An empty mask changes no byte under any colour. -/
theorem apply_zero (col : Color) (b : Byte) : Color.apply col b 0 = b := by
  refine BitVec.eq_of_getLsbD_eq fun k hk => ?_
  rw [getLsbD_apply col b 0 hk]
  cases col <;> simp [Color.bit]

/-- What every drawing loop keeps: the canonical form of the canvas, and every address outside it. -/
def keepsCanvas (c c' : Memory) : Prop :=
  (Memory.wf 1024 c = true → Memory.wf 1024 c' = true) ∧ ∀ a, 1024 ≤ a → Memory.read c' a = Memory.read c a

theorem keepsCanvas_refl (c : Memory) : keepsCanvas c c := ⟨id, fun _ _ => rfl⟩

theorem keepsCanvas_trans {c d e : Memory} (h : keepsCanvas c d) (k : keepsCanvas d e) : keepsCanvas c e :=
  ⟨k.1 ∘ h.1, fun a ha => (k.2 a ha).trans (h.2 a ha)⟩

/-- A loop of steps that each keep the canvas keeps it. -/
theorem keepsCanvas_foldl {α : Type} {f : Memory → α → Memory} (hf : ∀ c x, keepsCanvas c (f c x)) (l : List α)
    (c : Memory) : keepsCanvas c (l.foldl f c) := by
  induction l generalizing c with
  | nil => exact keepsCanvas_refl c
  | cons x l ih => exact keepsCanvas_trans (hf c x) (ih _)

theorem keepsCanvas_compose (col : Color) (c : Memory) (i : Int) (mask : Byte) :
    keepsCanvas c (compose col c i mask) := by
  refine ⟨fun h => ?_, fun a ha => ?_⟩
  · unfold compose
    split
    · exact Memory.wf_write h (by omega) _
    · exact h
  · rw [read_compose, if_neg (by omega)]

theorem keepsCanvas_composePixel (col : Color) (c : Memory) (x y : Int) : keepsCanvas c (composePixel col c x y) := by
  unfold composePixel
  split
  · exact keepsCanvas_compose ..
  · exact keepsCanvas_refl c

theorem keepsCanvas_hLineBody (col : Color) (c : Memory) (x y len : Int) : keepsCanvas c (hLineBody col c x y len) := by
  unfold hLineBody
  split
  · exact keepsCanvas_refl c
  · exact keepsCanvas_foldl (fun _ _ => keepsCanvas_compose ..) _ c

theorem keepsCanvas_vLineFull (col : Color) (x : Int) (n : Nat) (p : Int) (c : Memory) :
    keepsCanvas c (vLineFull col x n p c) := by
  induction n generalizing p c with
  | zero => exact keepsCanvas_refl c
  | succ n ih => exact keepsCanvas_trans (keepsCanvas_compose ..) (ih _ _)

theorem keepsCanvas_vLineTail (col : Color) (c : Memory) (x p : Int) (n : Nat) :
    keepsCanvas c (vLineTail col c x p n) := by
  unfold vLineTail
  dsimp only
  split
  · exact keepsCanvas_vLineFull ..
  · exact keepsCanvas_trans (keepsCanvas_vLineFull ..) (keepsCanvas_compose ..)

theorem keepsCanvas_vLineParts (col : Color) (c : Memory) (x y : Int) (n : Nat) :
    keepsCanvas c (vLineParts col c x y n) := by
  unfold vLineParts
  dsimp only
  split
  · exact keepsCanvas_vLineTail ..
  · exact keepsCanvas_trans (keepsCanvas_compose ..) (keepsCanvas_vLineTail ..)

theorem keepsCanvas_vLineBody (col : Color) (c : Memory) (x y len : Int) : keepsCanvas c (vLineBody col c x y len) := by
  unfold vLineBody
  split
  · exact keepsCanvas_refl c
  · dsimp only
    split
    · exact keepsCanvas_refl c
    · exact keepsCanvas_vLineParts ..

theorem keepsCanvas_rectBody (col : Color) (c : Memory) (x y w h : Int) : keepsCanvas c (rectBody col c x y w h) := by
  unfold rectBody
  split
  · exact keepsCanvas_refl c
  · exact keepsCanvas_trans (keepsCanvas_trans (keepsCanvas_trans (keepsCanvas_hLineBody ..) (keepsCanvas_vLineBody ..))
      (keepsCanvas_vLineBody ..)) (keepsCanvas_hLineBody ..)

theorem keepsCanvas_fillRectBody (col : Color) (c : Memory) (x y w h : Int) :
    keepsCanvas c (fillRectBody col c x y w h) := by
  unfold fillRectBody
  split
  · exact keepsCanvas_refl c
  · exact keepsCanvas_foldl (fun _ _ => keepsCanvas_hLineBody ..) _ c

theorem keepsCanvas_blitByte (col : Color) (yOff : Nat) (c : Memory) (xp pg : Int) (b : Byte) :
    keepsCanvas c (blitByte col yOff c xp pg b) := by
  unfold blitByte
  split
  · have hprim : keepsCanvas c (if 0 ≤ pg ∧ pg < 8 then compose col c (xp + pg * 128) (b <<< yOff) else c) := by
      split
      · exact keepsCanvas_compose ..
      · exact keepsCanvas_refl c
    dsimp only
    split
    · exact keepsCanvas_trans hprim (keepsCanvas_compose ..)
    · exact hprim
  · exact keepsCanvas_refl c

theorem keepsCanvas_blitBody (col : Color) (src c : Memory) (x y rh base : Int) (cnt : Nat) :
    keepsCanvas c (blitBody col src c x y rh base cnt) :=
  keepsCanvas_foldl (fun _ _ => keepsCanvas_blitByte ..) _ c

theorem keepsCanvas_blitRowBody (col : Color) (src c : Memory) (x y w base : Int) (n : Nat) :
    keepsCanvas c (blitRowBody col src c x y w base n) :=
  keepsCanvas_foldl (fun _ _ => by
    split
    · exact keepsCanvas_composePixel ..
    · exact keepsCanvas_refl _) _ c

end Sys2Proof.Machine
end

