-- ==== Sys2Proof/Laws/Fault.lean ====
section
/-!
SUPPORT. What the fault latch does, said once: the two cases BUSY = 0 and BUSY = 1 of a first fault, and the fields it
never writes.
-/

namespace Sys2Proof.Machine

/-- A first fault while no command is in progress records its cause and nothing else. -/
theorem raiseFault_idle {s : State} (hf : s.fault = false) (hb : s.busy = false) (c : Cause) :
    raiseFault c s = { s with fault := true, cause := c } := by
  simp [raiseFault, latchCause, stopCommand, hf, hb]

/-- A first fault while a command is in progress also stops the command. -/
theorem raiseFault_busy {s : State} (hf : s.fault = false) (hb : s.busy = true) (c : Cause) :
    raiseFault c s = { s with fault := true, cause := c, busy := false, syncState := .idle } := by
  simp [raiseFault, latchCause, stopCommand, hf, hb]

/-- A later fault keeps the first cause. -/
theorem raiseFault_again {s : State} (hf : s.fault = true) (c : Cause) : raiseFault c s = stopCommand s := by
  simp [raiseFault, latchCause, hf]

/-- The fault latch writes FAULT, CAUSE, BUSY and SYNC_STATE only. -/
theorem raiseFault_frame (c : Cause) (s : State) :
    raiseFault c s = { s with
      fault := (raiseFault c s).fault, cause := (raiseFault c s).cause
      busy := (raiseFault c s).busy, syncState := (raiseFault c s).syncState } := by
  unfold raiseFault latchCause stopCommand
  split <;> split <;> rfl

@[simp] theorem raiseFault_fault (c : Cause) (s : State) : (raiseFault c s).fault = true := by
  unfold raiseFault latchCause stopCommand
  split <;> split <;> simp_all

@[simp] theorem raiseFault_not_busy (c : Cause) (s : State) : (raiseFault c s).busy = false := by
  unfold raiseFault latchCause stopCommand
  split <;> split <;> simp_all

end Sys2Proof.Machine
end

