-- ==== Sys2Proof/Laws/PerInstr.lean ====
section
/-!
SUPPORT. The per-command family RoundTrip: the decoder reads each command from its own command word, by itself and
through the table's numbering, and the word's reserved bits are 0 (30_encoding.md R90, R92).
-/

namespace Sys2Proof.Laws.RoundTrip

/-- The statement about one command. -/
def Statement (i : Instr) : Prop :=
  i.wf = true ∧ decode? (encode i) = some i ∧ decodeTableWord 16 (encode i).toNat = some i ∧ rsvField (encode i) = 0

theorem nop : Statement .nop := by unfold Statement; decide
theorem init : Statement .init := by unfold Statement; decide
theorem clear : Statement .clear := by unfold Statement; decide
theorem setpixel : Statement .setpixel := by unfold Statement; decide
theorem hline : Statement .hline := by unfold Statement; decide
theorem vline : Statement .vline := by unfold Statement; decide
theorem rect : Statement .rect := by unfold Statement; decide
theorem fillrect : Statement .fillrect := by unfold Statement; decide
theorem blit : Statement .blit := by unfold Statement; decide
theorem blitrow : Statement .blitrow := by unfold Statement; decide
theorem sync : Statement .sync := by unfold Statement; decide

end Sys2Proof.Laws.RoundTrip
end

