-- ==== Sys2Proof/Laws/State.lean ====
section
/-!
SUPPORT. The named updates of the state, field by field: what each one writes, and that it writes nothing else.
-/

namespace Sys2Proof.Machine

@[simp] theorem endCommand_canvas (s : State) : (endCommand s).canvas = s.canvas := rfl
@[simp] theorem endCommand_shadow (s : State) : (endCommand s).shadow = s.shadow := rfl
@[simp] theorem endCommand_arg (s : State) : (endCommand s).arg = s.arg := rfl
@[simp] theorem endCommand_color (s : State) : (endCommand s).color = s.color := rfl
@[simp] theorem endCommand_ready (s : State) : (endCommand s).ready = s.ready := rfl
@[simp] theorem endCommand_initFail (s : State) : (endCommand s).initFail = s.initFail := rfl
@[simp] theorem endCommand_busy (s : State) : (endCommand s).busy = false := rfl
@[simp] theorem endCommand_fault (s : State) : (endCommand s).fault = s.fault := rfl
@[simp] theorem endCommand_cause (s : State) : (endCommand s).cause = s.cause := rfl
@[simp] theorem endCommand_syncState (s : State) : (endCommand s).syncState = s.syncState := rfl
@[simp] theorem endCommand_bboxValid (s : State) : (endCommand s).bboxValid = s.bboxValid := rfl
@[simp] theorem endCommand_bbox (s : State) : (endCommand s).bbox = s.bbox := rfl
@[simp] theorem endCommand_latched (s : State) : (endCommand s).latched = s.latched := rfl
@[simp] theorem endCommand_current (s : State) : (endCommand s).current = s.current := rfl
@[simp] theorem endCommand_seq (s : State) : (endCommand s).seq = s.seq := rfl
@[simp] theorem endCommand_cfg (s : State) : (endCommand s).cfg = s.cfg := rfl
@[simp] theorem endCommand_src (s : State) : (endCommand s).src = s.src := rfl
@[simp] theorem endCommand_bus (s : State) : (endCommand s).bus = s.bus := rfl
@[simp] theorem endCommand_turns (s : State) : (endCommand s).turns = s.turns := rfl
@[simp] theorem endCommand_replies (s : State) : (endCommand s).replies = s.replies := rfl
@[simp] theorem endCommand_initOutcomes (s : State) : (endCommand s).initOutcomes = s.initOutcomes := rfl
@[simp] theorem endCommand_initDraws (s : State) : (endCommand s).initDraws = s.initDraws := rfl

@[simp] theorem setCanvas_canvas (s : State) (c : Memory) : (setCanvas s c).canvas = c := rfl
@[simp] theorem setCanvas_shadow (s : State) (c : Memory) : (setCanvas s c).shadow = s.shadow := rfl
@[simp] theorem setCanvas_arg (s : State) (c : Memory) : (setCanvas s c).arg = s.arg := rfl
@[simp] theorem setCanvas_color (s : State) (c : Memory) : (setCanvas s c).color = s.color := rfl
@[simp] theorem setCanvas_ready (s : State) (c : Memory) : (setCanvas s c).ready = s.ready := rfl
@[simp] theorem setCanvas_initFail (s : State) (c : Memory) : (setCanvas s c).initFail = s.initFail := rfl
@[simp] theorem setCanvas_busy (s : State) (c : Memory) : (setCanvas s c).busy = s.busy := rfl
@[simp] theorem setCanvas_fault (s : State) (c : Memory) : (setCanvas s c).fault = s.fault := rfl
@[simp] theorem setCanvas_cause (s : State) (c : Memory) : (setCanvas s c).cause = s.cause := rfl
@[simp] theorem setCanvas_syncState (s : State) (c : Memory) : (setCanvas s c).syncState = s.syncState := rfl
@[simp] theorem setCanvas_bboxValid (s : State) (c : Memory) : (setCanvas s c).bboxValid = s.bboxValid := rfl
@[simp] theorem setCanvas_bbox (s : State) (c : Memory) : (setCanvas s c).bbox = s.bbox := rfl
@[simp] theorem setCanvas_latched (s : State) (c : Memory) : (setCanvas s c).latched = s.latched := rfl
@[simp] theorem setCanvas_current (s : State) (c : Memory) : (setCanvas s c).current = s.current := rfl
@[simp] theorem setCanvas_seq (s : State) (c : Memory) : (setCanvas s c).seq = s.seq := rfl
@[simp] theorem setCanvas_cfg (s : State) (c : Memory) : (setCanvas s c).cfg = s.cfg := rfl
@[simp] theorem setCanvas_src (s : State) (c : Memory) : (setCanvas s c).src = s.src := rfl
@[simp] theorem setCanvas_bus (s : State) (c : Memory) : (setCanvas s c).bus = s.bus := rfl
@[simp] theorem setCanvas_turns (s : State) (c : Memory) : (setCanvas s c).turns = s.turns := rfl
@[simp] theorem setCanvas_replies (s : State) (c : Memory) : (setCanvas s c).replies = s.replies := rfl
@[simp] theorem setCanvas_initOutcomes (s : State) (c : Memory) : (setCanvas s c).initOutcomes = s.initOutcomes := rfl
@[simp] theorem setCanvas_initDraws (s : State) (c : Memory) : (setCanvas s c).initDraws = s.initDraws := rfl

@[simp] theorem finishDraw_canvas (s : State) (c : Memory) : (finishDraw s c).canvas = c := rfl
@[simp] theorem finishDraw_shadow (s : State) (c : Memory) : (finishDraw s c).shadow = s.shadow := rfl
@[simp] theorem finishDraw_arg (s : State) (c : Memory) : (finishDraw s c).arg = s.arg := rfl
@[simp] theorem finishDraw_color (s : State) (c : Memory) : (finishDraw s c).color = s.color := rfl
@[simp] theorem finishDraw_ready (s : State) (c : Memory) : (finishDraw s c).ready = s.ready := rfl
@[simp] theorem finishDraw_initFail (s : State) (c : Memory) : (finishDraw s c).initFail = s.initFail := rfl
@[simp] theorem finishDraw_busy (s : State) (c : Memory) : (finishDraw s c).busy = false := rfl
@[simp] theorem finishDraw_fault (s : State) (c : Memory) : (finishDraw s c).fault = s.fault := rfl
@[simp] theorem finishDraw_cause (s : State) (c : Memory) : (finishDraw s c).cause = s.cause := rfl
@[simp] theorem finishDraw_syncState (s : State) (c : Memory) : (finishDraw s c).syncState = s.syncState := rfl
@[simp] theorem finishDraw_bboxValid (s : State) (c : Memory) : (finishDraw s c).bboxValid = s.bboxValid := rfl
@[simp] theorem finishDraw_bbox (s : State) (c : Memory) : (finishDraw s c).bbox = s.bbox := rfl
@[simp] theorem finishDraw_latched (s : State) (c : Memory) : (finishDraw s c).latched = s.latched := rfl
@[simp] theorem finishDraw_current (s : State) (c : Memory) : (finishDraw s c).current = s.current := rfl
@[simp] theorem finishDraw_seq (s : State) (c : Memory) : (finishDraw s c).seq = s.seq := rfl
@[simp] theorem finishDraw_cfg (s : State) (c : Memory) : (finishDraw s c).cfg = s.cfg := rfl
@[simp] theorem finishDraw_src (s : State) (c : Memory) : (finishDraw s c).src = s.src := rfl
@[simp] theorem finishDraw_bus (s : State) (c : Memory) : (finishDraw s c).bus = s.bus := rfl
@[simp] theorem finishDraw_turns (s : State) (c : Memory) : (finishDraw s c).turns = s.turns := rfl
@[simp] theorem finishDraw_replies (s : State) (c : Memory) : (finishDraw s c).replies = s.replies := rfl
@[simp] theorem finishDraw_initOutcomes (s : State) (c : Memory) : (finishDraw s c).initOutcomes = s.initOutcomes := rfl
@[simp] theorem finishDraw_initDraws (s : State) (c : Memory) : (finishDraw s c).initDraws = s.initDraws := rfl

@[simp] theorem emit_canvas (s : State) (es : List BusEvent) : (emit s es).canvas = s.canvas := rfl
@[simp] theorem emit_shadow (s : State) (es : List BusEvent) : (emit s es).shadow = s.shadow := rfl
@[simp] theorem emit_arg (s : State) (es : List BusEvent) : (emit s es).arg = s.arg := rfl
@[simp] theorem emit_color (s : State) (es : List BusEvent) : (emit s es).color = s.color := rfl
@[simp] theorem emit_ready (s : State) (es : List BusEvent) : (emit s es).ready = s.ready := rfl
@[simp] theorem emit_initFail (s : State) (es : List BusEvent) : (emit s es).initFail = s.initFail := rfl
@[simp] theorem emit_busy (s : State) (es : List BusEvent) : (emit s es).busy = s.busy := rfl
@[simp] theorem emit_fault (s : State) (es : List BusEvent) : (emit s es).fault = s.fault := rfl
@[simp] theorem emit_cause (s : State) (es : List BusEvent) : (emit s es).cause = s.cause := rfl
@[simp] theorem emit_syncState (s : State) (es : List BusEvent) : (emit s es).syncState = s.syncState := rfl
@[simp] theorem emit_bboxValid (s : State) (es : List BusEvent) : (emit s es).bboxValid = s.bboxValid := rfl
@[simp] theorem emit_bbox (s : State) (es : List BusEvent) : (emit s es).bbox = s.bbox := rfl
@[simp] theorem emit_latched (s : State) (es : List BusEvent) : (emit s es).latched = s.latched := rfl
@[simp] theorem emit_current (s : State) (es : List BusEvent) : (emit s es).current = s.current := rfl
@[simp] theorem emit_seq (s : State) (es : List BusEvent) : (emit s es).seq = s.seq := rfl
@[simp] theorem emit_cfg (s : State) (es : List BusEvent) : (emit s es).cfg = s.cfg := rfl
@[simp] theorem emit_src (s : State) (es : List BusEvent) : (emit s es).src = s.src := rfl
@[simp] theorem emit_bus (s : State) (es : List BusEvent) : (emit s es).bus = s.bus ++ es := rfl
@[simp] theorem emit_turns (s : State) (es : List BusEvent) : (emit s es).turns = s.turns := rfl
@[simp] theorem emit_replies (s : State) (es : List BusEvent) : (emit s es).replies = s.replies := rfl
@[simp] theorem emit_initOutcomes (s : State) (es : List BusEvent) : (emit s es).initOutcomes = s.initOutcomes := rfl
@[simp] theorem emit_initDraws (s : State) (es : List BusEvent) : (emit s es).initDraws = s.initDraws := rfl

@[simp] theorem answer_canvas (s : State) (r : Reply) : (answer s r).canvas = s.canvas := rfl
@[simp] theorem answer_shadow (s : State) (r : Reply) : (answer s r).shadow = s.shadow := rfl
@[simp] theorem answer_arg (s : State) (r : Reply) : (answer s r).arg = s.arg := rfl
@[simp] theorem answer_color (s : State) (r : Reply) : (answer s r).color = s.color := rfl
@[simp] theorem answer_ready (s : State) (r : Reply) : (answer s r).ready = s.ready := rfl
@[simp] theorem answer_initFail (s : State) (r : Reply) : (answer s r).initFail = s.initFail := rfl
@[simp] theorem answer_busy (s : State) (r : Reply) : (answer s r).busy = s.busy := rfl
@[simp] theorem answer_fault (s : State) (r : Reply) : (answer s r).fault = s.fault := rfl
@[simp] theorem answer_cause (s : State) (r : Reply) : (answer s r).cause = s.cause := rfl
@[simp] theorem answer_syncState (s : State) (r : Reply) : (answer s r).syncState = s.syncState := rfl
@[simp] theorem answer_bboxValid (s : State) (r : Reply) : (answer s r).bboxValid = s.bboxValid := rfl
@[simp] theorem answer_bbox (s : State) (r : Reply) : (answer s r).bbox = s.bbox := rfl
@[simp] theorem answer_latched (s : State) (r : Reply) : (answer s r).latched = s.latched := rfl
@[simp] theorem answer_current (s : State) (r : Reply) : (answer s r).current = s.current := rfl
@[simp] theorem answer_seq (s : State) (r : Reply) : (answer s r).seq = s.seq := rfl
@[simp] theorem answer_cfg (s : State) (r : Reply) : (answer s r).cfg = s.cfg := rfl
@[simp] theorem answer_src (s : State) (r : Reply) : (answer s r).src = s.src := rfl
@[simp] theorem answer_bus (s : State) (r : Reply) : (answer s r).bus = s.bus := rfl
@[simp] theorem answer_turns (s : State) (r : Reply) : (answer s r).turns = s.turns := rfl
@[simp] theorem answer_replies (s : State) (r : Reply) : (answer s r).replies = s.replies ++ [r] := rfl
@[simp] theorem answer_initOutcomes (s : State) (r : Reply) : (answer s r).initOutcomes = s.initOutcomes := rfl
@[simp] theorem answer_initDraws (s : State) (r : Reply) : (answer s r).initDraws = s.initDraws := rfl

@[simp] theorem setTurns_canvas (s : State) (ts : List Turn) : (setTurns s ts).canvas = s.canvas := rfl
@[simp] theorem setTurns_shadow (s : State) (ts : List Turn) : (setTurns s ts).shadow = s.shadow := rfl
@[simp] theorem setTurns_arg (s : State) (ts : List Turn) : (setTurns s ts).arg = s.arg := rfl
@[simp] theorem setTurns_color (s : State) (ts : List Turn) : (setTurns s ts).color = s.color := rfl
@[simp] theorem setTurns_ready (s : State) (ts : List Turn) : (setTurns s ts).ready = s.ready := rfl
@[simp] theorem setTurns_initFail (s : State) (ts : List Turn) : (setTurns s ts).initFail = s.initFail := rfl
@[simp] theorem setTurns_busy (s : State) (ts : List Turn) : (setTurns s ts).busy = s.busy := rfl
@[simp] theorem setTurns_fault (s : State) (ts : List Turn) : (setTurns s ts).fault = s.fault := rfl
@[simp] theorem setTurns_cause (s : State) (ts : List Turn) : (setTurns s ts).cause = s.cause := rfl
@[simp] theorem setTurns_syncState (s : State) (ts : List Turn) : (setTurns s ts).syncState = s.syncState := rfl
@[simp] theorem setTurns_bboxValid (s : State) (ts : List Turn) : (setTurns s ts).bboxValid = s.bboxValid := rfl
@[simp] theorem setTurns_bbox (s : State) (ts : List Turn) : (setTurns s ts).bbox = s.bbox := rfl
@[simp] theorem setTurns_latched (s : State) (ts : List Turn) : (setTurns s ts).latched = s.latched := rfl
@[simp] theorem setTurns_current (s : State) (ts : List Turn) : (setTurns s ts).current = s.current := rfl
@[simp] theorem setTurns_seq (s : State) (ts : List Turn) : (setTurns s ts).seq = s.seq := rfl
@[simp] theorem setTurns_cfg (s : State) (ts : List Turn) : (setTurns s ts).cfg = s.cfg := rfl
@[simp] theorem setTurns_src (s : State) (ts : List Turn) : (setTurns s ts).src = s.src := rfl
@[simp] theorem setTurns_bus (s : State) (ts : List Turn) : (setTurns s ts).bus = s.bus := rfl
@[simp] theorem setTurns_turns (s : State) (ts : List Turn) : (setTurns s ts).turns = ts := rfl
@[simp] theorem setTurns_replies (s : State) (ts : List Turn) : (setTurns s ts).replies = s.replies := rfl
@[simp] theorem setTurns_initOutcomes (s : State) (ts : List Turn) : (setTurns s ts).initOutcomes = s.initOutcomes := rfl
@[simp] theorem setTurns_initDraws (s : State) (ts : List Turn) : (setTurns s ts).initDraws = s.initDraws := rfl

@[simp] theorem argWrite_canvas (s : State) (n : Fin 8) (v : Word) : (argWrite s n v).canvas = s.canvas := rfl
@[simp] theorem argWrite_shadow (s : State) (n : Fin 8) (v : Word) : (argWrite s n v).shadow = s.shadow := rfl
@[simp] theorem argWrite_arg (s : State) (n : Fin 8) (v : Word) : (argWrite s n v).arg = s.arg.set n v := rfl
@[simp] theorem argWrite_color (s : State) (n : Fin 8) (v : Word) : (argWrite s n v).color = s.color := rfl
@[simp] theorem argWrite_ready (s : State) (n : Fin 8) (v : Word) : (argWrite s n v).ready = s.ready := rfl
@[simp] theorem argWrite_initFail (s : State) (n : Fin 8) (v : Word) : (argWrite s n v).initFail = s.initFail := rfl
@[simp] theorem argWrite_busy (s : State) (n : Fin 8) (v : Word) : (argWrite s n v).busy = s.busy := rfl
@[simp] theorem argWrite_fault (s : State) (n : Fin 8) (v : Word) : (argWrite s n v).fault = s.fault := rfl
@[simp] theorem argWrite_cause (s : State) (n : Fin 8) (v : Word) : (argWrite s n v).cause = s.cause := rfl
@[simp] theorem argWrite_syncState (s : State) (n : Fin 8) (v : Word) : (argWrite s n v).syncState = s.syncState := rfl
@[simp] theorem argWrite_bboxValid (s : State) (n : Fin 8) (v : Word) : (argWrite s n v).bboxValid = s.bboxValid := rfl
@[simp] theorem argWrite_bbox (s : State) (n : Fin 8) (v : Word) : (argWrite s n v).bbox = s.bbox := rfl
@[simp] theorem argWrite_latched (s : State) (n : Fin 8) (v : Word) : (argWrite s n v).latched = s.latched := rfl
@[simp] theorem argWrite_current (s : State) (n : Fin 8) (v : Word) : (argWrite s n v).current = s.current := rfl
@[simp] theorem argWrite_seq (s : State) (n : Fin 8) (v : Word) : (argWrite s n v).seq = s.seq := rfl
@[simp] theorem argWrite_cfg (s : State) (n : Fin 8) (v : Word) : (argWrite s n v).cfg = s.cfg := rfl
@[simp] theorem argWrite_src (s : State) (n : Fin 8) (v : Word) : (argWrite s n v).src = s.src := rfl
@[simp] theorem argWrite_bus (s : State) (n : Fin 8) (v : Word) : (argWrite s n v).bus = s.bus := rfl
@[simp] theorem argWrite_turns (s : State) (n : Fin 8) (v : Word) : (argWrite s n v).turns = s.turns := rfl
@[simp] theorem argWrite_replies (s : State) (n : Fin 8) (v : Word) : (argWrite s n v).replies = s.replies := rfl
@[simp] theorem argWrite_initOutcomes (s : State) (n : Fin 8) (v : Word) : (argWrite s n v).initOutcomes = s.initOutcomes := rfl
@[simp] theorem argWrite_initDraws (s : State) (n : Fin 8) (v : Word) : (argWrite s n v).initDraws = s.initDraws := rfl

@[simp] theorem advanceDraw_canvas (s : State) : (advanceDraw s).canvas = s.canvas := rfl
@[simp] theorem advanceDraw_shadow (s : State) : (advanceDraw s).shadow = s.shadow := rfl
@[simp] theorem advanceDraw_arg (s : State) : (advanceDraw s).arg = s.arg := rfl
@[simp] theorem advanceDraw_color (s : State) : (advanceDraw s).color = s.color := rfl
@[simp] theorem advanceDraw_ready (s : State) : (advanceDraw s).ready = s.ready := rfl
@[simp] theorem advanceDraw_initFail (s : State) : (advanceDraw s).initFail = s.initFail := rfl
@[simp] theorem advanceDraw_busy (s : State) : (advanceDraw s).busy = s.busy := rfl
@[simp] theorem advanceDraw_fault (s : State) : (advanceDraw s).fault = s.fault := rfl
@[simp] theorem advanceDraw_cause (s : State) : (advanceDraw s).cause = s.cause := rfl
@[simp] theorem advanceDraw_syncState (s : State) : (advanceDraw s).syncState = s.syncState := rfl
@[simp] theorem advanceDraw_bboxValid (s : State) : (advanceDraw s).bboxValid = s.bboxValid := rfl
@[simp] theorem advanceDraw_bbox (s : State) : (advanceDraw s).bbox = s.bbox := rfl
@[simp] theorem advanceDraw_latched (s : State) : (advanceDraw s).latched = s.latched := rfl
@[simp] theorem advanceDraw_current (s : State) : (advanceDraw s).current = s.current := rfl
@[simp] theorem advanceDraw_seq (s : State) : (advanceDraw s).seq = s.seq := rfl
@[simp] theorem advanceDraw_cfg (s : State) : (advanceDraw s).cfg = s.cfg := rfl
@[simp] theorem advanceDraw_src (s : State) : (advanceDraw s).src = s.src := rfl
@[simp] theorem advanceDraw_bus (s : State) : (advanceDraw s).bus = s.bus := rfl
@[simp] theorem advanceDraw_turns (s : State) : (advanceDraw s).turns = s.turns := rfl
@[simp] theorem advanceDraw_replies (s : State) : (advanceDraw s).replies = s.replies := rfl
@[simp] theorem advanceDraw_initOutcomes (s : State) : (advanceDraw s).initOutcomes = s.initOutcomes.tail := rfl
@[simp] theorem advanceDraw_initDraws (s : State) : (advanceDraw s).initDraws = s.initDraws + 1 := rfl

@[simp] theorem clearBBox_canvas (s : State) : (clearBBox s).canvas = s.canvas := rfl
@[simp] theorem clearBBox_shadow (s : State) : (clearBBox s).shadow = s.shadow := rfl
@[simp] theorem clearBBox_arg (s : State) : (clearBBox s).arg = s.arg := rfl
@[simp] theorem clearBBox_color (s : State) : (clearBBox s).color = s.color := rfl
@[simp] theorem clearBBox_ready (s : State) : (clearBBox s).ready = s.ready := rfl
@[simp] theorem clearBBox_initFail (s : State) : (clearBBox s).initFail = s.initFail := rfl
@[simp] theorem clearBBox_busy (s : State) : (clearBBox s).busy = s.busy := rfl
@[simp] theorem clearBBox_fault (s : State) : (clearBBox s).fault = s.fault := rfl
@[simp] theorem clearBBox_cause (s : State) : (clearBBox s).cause = s.cause := rfl
@[simp] theorem clearBBox_syncState (s : State) : (clearBBox s).syncState = s.syncState := rfl
@[simp] theorem clearBBox_bboxValid (s : State) : (clearBBox s).bboxValid = false := rfl
@[simp] theorem clearBBox_bbox (s : State) : (clearBBox s).bbox = ⟨0x00, 0x00, 0x00, 0x00⟩ := rfl
@[simp] theorem clearBBox_latched (s : State) : (clearBBox s).latched = s.latched := rfl
@[simp] theorem clearBBox_current (s : State) : (clearBBox s).current = s.current := rfl
@[simp] theorem clearBBox_seq (s : State) : (clearBBox s).seq = s.seq := rfl
@[simp] theorem clearBBox_cfg (s : State) : (clearBBox s).cfg = s.cfg := rfl
@[simp] theorem clearBBox_src (s : State) : (clearBBox s).src = s.src := rfl
@[simp] theorem clearBBox_bus (s : State) : (clearBBox s).bus = s.bus := rfl
@[simp] theorem clearBBox_turns (s : State) : (clearBBox s).turns = s.turns := rfl
@[simp] theorem clearBBox_replies (s : State) : (clearBBox s).replies = s.replies := rfl
@[simp] theorem clearBBox_initOutcomes (s : State) : (clearBBox s).initOutcomes = s.initOutcomes := rfl
@[simp] theorem clearBBox_initDraws (s : State) : (clearBBox s).initDraws = s.initDraws := rfl

@[simp] theorem txEnd_canvas (s : State) : (txEnd s).canvas = s.canvas := rfl
@[simp] theorem txEnd_shadow (s : State) : (txEnd s).shadow = s.shadow := rfl
@[simp] theorem txEnd_arg (s : State) : (txEnd s).arg = s.arg := rfl
@[simp] theorem txEnd_color (s : State) : (txEnd s).color = s.color := rfl
@[simp] theorem txEnd_ready (s : State) : (txEnd s).ready = s.ready := rfl
@[simp] theorem txEnd_initFail (s : State) : (txEnd s).initFail = s.initFail := rfl
@[simp] theorem txEnd_busy (s : State) : (txEnd s).busy = false := rfl
@[simp] theorem txEnd_fault (s : State) : (txEnd s).fault = s.fault := rfl
@[simp] theorem txEnd_cause (s : State) : (txEnd s).cause = s.cause := rfl
@[simp] theorem txEnd_syncState (s : State) : (txEnd s).syncState = .idle := rfl
@[simp] theorem txEnd_bboxValid (s : State) : (txEnd s).bboxValid = s.bboxValid := rfl
@[simp] theorem txEnd_bbox (s : State) : (txEnd s).bbox = s.bbox := rfl
@[simp] theorem txEnd_latched (s : State) : (txEnd s).latched = s.latched := rfl
@[simp] theorem txEnd_current (s : State) : (txEnd s).current = s.current := rfl
@[simp] theorem txEnd_seq (s : State) : (txEnd s).seq = s.seq := rfl
@[simp] theorem txEnd_cfg (s : State) : (txEnd s).cfg = s.cfg := rfl
@[simp] theorem txEnd_src (s : State) : (txEnd s).src = s.src := rfl
@[simp] theorem txEnd_bus (s : State) : (txEnd s).bus = s.bus := rfl
@[simp] theorem txEnd_turns (s : State) : (txEnd s).turns = s.turns := rfl
@[simp] theorem txEnd_replies (s : State) : (txEnd s).replies = s.replies := rfl
@[simp] theorem txEnd_initOutcomes (s : State) : (txEnd s).initOutcomes = s.initOutcomes := rfl
@[simp] theorem txEnd_initDraws (s : State) : (txEnd s).initDraws = s.initDraws := rfl

end Sys2Proof.Machine
end

