-- ==== Sys2Proof/Laws/Step.lean ====
section
/-!
SUPPORT. What a host move and a unit step can do, said once: inversion lemmas that the proofs about steps cite instead
of unfolding the machine.
-/

namespace Sys2Proof.Machine

/-! ### Register offsets and command words -/

@[simp] theorem ofOffset_offset (r : Reg) : Reg.ofOffset r.offset = r := by
  cases r with
  | arg n => revert n; decide
  | _ => rfl

@[simp] theorem ofOffset_arg (n : Fin 8) : Reg.ofOffset (BitVec.ofNat 4 (8 + n.val)) = .arg n :=
  ofOffset_offset (.arg n)

theorem offset_ofOffset (off : BitVec 4) : (Reg.ofOffset off).offset = off := by revert off; decide

/-- The registers a write reaches, by offset. -/
theorem ofOffset_eq_iff (off : BitVec 4) (r : Reg) : Reg.ofOffset off = r ↔ off = r.offset :=
  ⟨fun h => by rw [← h, offset_ofOffset], fun h => by rw [h, ofOffset_offset]⟩

/-- A command's opcode and no other leads to it. -/
theorem opcodeOf_eq_some {n : Nat} {i : Instr} (h : opcodeOf n = some i) : n = i.opcode.toNat := by
  unfold opcodeOf at h
  split at h <;> cases h <;> rfl

theorem opcodeOf_eq_none {n : Nat} (h : opcodeOf n = none) : 0x0A < n := by
  by_contra hle
  have hle : n ≤ 10 := by omega
  interval_cases n <;> simp [opcodeOf] at h

theorem word_eq_fields (w : Word) : w = (rsvField w ++ opField w : BitVec 16) := by
  apply BitVec.eq_of_toNat_eq
  have hlt : w.toNat < 65536 := w.isLt
  simp only [rsvField, opField, BitVec.toNat_append, BitVec.extractLsb'_toNat, Nat.shiftRight_zero]
  rw [← Nat.shiftLeft_add_eq_or_of_lt (Nat.mod_lt _ (by decide)), Nat.shiftLeft_eq, Nat.shiftRight_eq_div_pow]
  omega

/-- The decoder gives a command for its own word only. -/
theorem decode?_eq_some {w : Word} {i : Instr} (h : decode? w = some i) : w = encode i := by
  unfold decode? decode at h
  by_cases hr : rsvField w = 0
  · rw [if_pos hr] at h
    cases ho : opcodeOf (opField w).toNat with
    | none => simp [ho] at h
    | some j =>
      simp only [ho, Option.some.injEq] at h
      have hop : opField w = i.opcode := BitVec.eq_of_toNat_eq (h ▸ opcodeOf_eq_some ho)
      rw [word_eq_fields w, hr, hop]
      rfl
  · rw [if_neg hr] at h
    cases h

@[simp] theorem decode?_encode (i : Instr) : decode? (encode i) = some i := by cases i <;> decide

/-! ### Command issue -/

/-- Acceptance of a command other than SYNC latches and sets BUSY only. -/
theorem accept_of_ne_sync {i : Instr} (h : i ≠ .sync) (s : State) :
    accept i s = { s with latched := ⟨s.arg, s.color⟩, busy := true, current := i } := by
  cases i <;> first | rfl | exact absurd rfl h

/-- Acceptance of SYNC with DOUBLE_BUFFER. -/
theorem accept_sync_buffered {s : State} (h : s.cfg.doubleBuffer = true) :
    accept .sync s = { s with
      latched := ⟨s.arg, s.color⟩, busy := true, current := .sync, syncState := .scanning
      seq := { s.seq with phase := .scan, scanPage := 0, found := false } } := by
  simp [accept, syncAccept, h]

/-- Acceptance of SYNC without DOUBLE_BUFFER. -/
theorem accept_sync_unbuffered {s : State} (h : s.cfg.doubleBuffer = false) :
    accept .sync s = { s with
      latched := ⟨s.arg, s.color⟩, busy := true, current := .sync, syncState := .transmitting
      seq := { s.seq with phase := .setup, minCol := 0, maxCol := 127, minPage := 0, maxPage := 7 }
      bbox := ⟨0x00, 0x7F, 0x00, 0x07⟩, bboxValid := true } := by
  simp [accept, syncAccept, h]

/-- Acceptance writes L, BUSY, the command in progress, and, for SYNC, its sequencer and box fields; nothing else. -/
theorem accept_frame (i : Instr) (s : State) :
    accept i s = { s with
      latched := ⟨s.arg, s.color⟩, busy := true, current := i, syncState := (accept i s).syncState
      seq := (accept i s).seq, bbox := (accept i s).bbox, bboxValid := (accept i s).bboxValid } := by
  by_cases h : i = .sync
  · subst h
    cases hd : s.cfg.doubleBuffer
    · rw [accept_sync_unbuffered hd]
    · rw [accept_sync_buffered hd]
  · rw [accept_of_ne_sync h]

/-- Command issue is one of five things, each with its condition. -/
theorem issueCommand_cases (s : State) (w : Word) :
    (s.fault = true ∧ issueCommand s w = s) ∨
    (s.fault = false ∧ s.busy = true ∧ issueCommand s w = raiseFault .busyViolation s) ∨
    (s.fault = false ∧ s.busy = false ∧ decode? w = none ∧ issueCommand s w = raiseFault .illegalOpcode s) ∨
    (∃ i, s.fault = false ∧ s.busy = false ∧ w = encode i ∧ s.ready = false ∧ runsUnready i = false ∧
      issueCommand s w = raiseFault .notReady s) ∨
    ∃ i, s.fault = false ∧ s.busy = false ∧ w = encode i ∧ (s.ready = true ∨ runsUnready i = true) ∧
      issueCommand s w = accept i s := by
  unfold issueCommand
  by_cases hf : s.fault = true
  · exact .inl ⟨hf, by simp [hf]⟩
  · have hf : s.fault = false := by simpa using hf
    by_cases hb : s.busy = true
    · exact .inr (.inl ⟨hf, hb, by simp [hf, hb]⟩)
    · have hb : s.busy = false := by simpa using hb
      cases hd : decode? w with
      | none => exact .inr (.inr (.inl ⟨hf, hb, rfl, by simp [hf, hb]⟩))
      | some i =>
        have hw := decode?_eq_some hd
        by_cases hr : s.ready = true ∨ runsUnready i = true
        · exact .inr (.inr (.inr (.inr ⟨i, hf, hb, hw, hr, by simp [hf, hb, hr]⟩)))
        · simp only [not_or, Bool.not_eq_true] at hr
          exact .inr (.inr (.inr (.inl ⟨i, hf, hb, hw, hr.1, hr.2, by simp [hf, hb, hr.1, hr.2]⟩)))

/-- A COLOR write sets a colour or raises ILLEGAL_COLOR. -/
theorem colorWrite_cases (s : State) (v : Word) :
    (∃ c, colorOfCode (v.extractLsb' 0 2) = some c ∧ colorWrite s v = { s with color := c }) ∨
    (v.extractLsb' 0 2 = 3 ∧ colorWrite s v = raiseFault .illegalColor s) := by
  unfold colorWrite
  cases h : colorOfCode (v.extractLsb' 0 2) with
  | some c => exact .inl ⟨c, rfl, rfl⟩
  | none =>
    refine .inr ⟨?_, rfl⟩
    revert h
    generalize v.extractLsb' 0 2 = c
    revert c
    decide

/-- A register write reaches CMD, COLOR or one ARG, or changes nothing. -/
theorem regWrite_cases (s : State) (off : BitVec 4) (v : Word) :
    regWrite s off v = s ∨
    (off = Reg.cmd.offset ∧ s.fault = false ∧ regWrite s off v = issueCommand s v) ∨
    (off = Reg.color.offset ∧ s.fault = false ∧ regWrite s off v = colorWrite s v) ∨
    ∃ n, off = (Reg.arg n).offset ∧ s.fault = false ∧ regWrite s off v = argWrite s n v := by
  unfold regWrite
  by_cases hf : s.fault = true
  · exact .inl (by simp [hf])
  · have hf : s.fault = false := by simpa using hf
    simp only [hf, Bool.false_eq_true, if_false]
    cases hr : Reg.ofOffset off with
    | cmd => exact .inr (.inl ⟨(ofOffset_eq_iff _ _).mp hr, trivial, rfl⟩)
    | color => exact .inr (.inr (.inl ⟨(ofOffset_eq_iff _ _).mp hr, trivial, rfl⟩))
    | arg n => exact .inr (.inr (.inr ⟨n, (ofOffset_eq_iff _ _).mp hr, trivial, rfl⟩))
    | _ => exact .inl rfl

/-! ### Unit steps -/

/-- INIT draws one outcome; what it writes by that outcome. -/
theorem execInit_cases (s : State) :
    (initOutcome s = true ∧ execInit s = .next { s with
      canvas := [], shadow := if s.cfg.doubleBuffer then [] else s.shadow, ready := true, initFail := false
      busy := false, bboxValid := false, bbox := ⟨0x00, 0x00, 0x00, 0x00⟩
      initOutcomes := s.initOutcomes.tail, initDraws := s.initDraws + 1 }) ∨
    (initOutcome s = false ∧ execInit s = .next { s with
      canvas := [], shadow := if s.cfg.doubleBuffer then [] else s.shadow, ready := false, initFail := true
      busy := false, bboxValid := false, bbox := ⟨0x00, 0x00, 0x00, 0x00⟩
      initOutcomes := s.initOutcomes.tail, initDraws := s.initDraws + 1 }) := by
  cases h : initOutcome s
  · exact .inr ⟨rfl, by rw [execInit, h]; rfl⟩
  · exact .inl ⟨rfl, by rw [execInit, h]; rfl⟩

/-- BLIT ends without drawing, faults, or ends with a canvas. -/
theorem execBlit_cases (s : State) :
    execBlit s = .next (endCommand s) ∨
    (srcOK s.cfg.srcSize (s.latched.srcBase + s.latched.u16 6) (s.latched.u16 7) = false ∧
      execBlit s = .next (raiseFault .sourceRange s)) ∨
    execBlit s = .next (finishDraw s (blitBody s.latched.color s.src s.canvas (s.latched.s16 0) (s.latched.s16 1)
      (ceil8 (s.latched.s16 3)) (s.latched.srcBase + s.latched.u16 6) (s.latched.u16 7).toNat)) := by
  unfold execBlit
  dsimp only
  split
  · exact .inl rfl
  · split
    · exact .inr (.inr rfl)
    · next h => exact .inr (.inl ⟨by simpa using h, rfl⟩)

/-- BLITROW ends without drawing, faults, or ends with a canvas. -/
theorem execBlitrow_cases (s : State) :
    execBlitrow s = .next (endCommand s) ∨
    (srcOK s.cfg.srcSize s.latched.srcBase (ceil8 (s.latched.s16 2 * s.latched.s16 3)) = false ∧
      execBlitrow s = .next (raiseFault .sourceRange s)) ∨
    execBlitrow s = .next (finishDraw s (blitRowBody s.latched.color s.src s.canvas (s.latched.s16 0)
      (s.latched.s16 1) (s.latched.s16 2) s.latched.srcBase (s.latched.s16 2 * s.latched.s16 3).toNat)) := by
  unfold execBlitrow
  dsimp only
  split
  · exact .inl rfl
  · split
    · exact .inr (.inr rfl)
    · next h => exact .inr (.inl ⟨by simpa using h, rfl⟩)

/-- A scan step: the page is copied, and after the eighth page the scan ends. -/
theorem scanStep_cases (s : State) :
    (s.seq.scanPage + 1 ≠ 8 ∧ scanStep s = { s with
      shadow := (scanPage s.canvas s.shadow s.seq s.seq.scanPage).1
      seq := { (scanPage s.canvas s.shadow s.seq s.seq.scanPage).2 with scanPage := s.seq.scanPage + 1 } }) ∨
    (s.seq.scanPage + 1 = 8 ∧ scanStep s = scanEnd { s with
      shadow := (scanPage s.canvas s.shadow s.seq s.seq.scanPage).1
      seq := { (scanPage s.canvas s.shadow s.seq s.seq.scanPage).2 with scanPage := s.seq.scanPage + 1 } }) := by
  unfold scanStep
  dsimp only
  split
  · next h => exact .inr ⟨h, rfl⟩
  · next h => exact .inl ⟨h, rfl⟩

/-- The end of the scan: silent, or on to transmitting. -/
theorem scanEnd_cases (s : State) :
    (s.seq.found = false ∧ scanEnd s = { s with bboxValid := false, syncState := .idle, busy := false }) ∨
    (s.seq.found = true ∧ scanEnd s = { s with
      bbox := ⟨BitVec.ofNat 8 s.seq.minCol, BitVec.ofNat 8 s.seq.maxCol,
        BitVec.ofNat 8 s.seq.minPage, BitVec.ofNat 8 s.seq.maxPage⟩
      bboxValid := true, syncState := .transmitting, seq := { s.seq with phase := .setup } }) := by
  unfold scanEnd
  cases h : s.seq.found
  · exact .inl ⟨rfl, by simp [endCommand]⟩
  · exact .inr ⟨rfl, by simp⟩

/-- One transmitted page: its payload goes out, and after the last page the SYNC ends. -/
theorem txRow_cases (s : State) :
    (s.seq.txPage + 1 ≤ s.seq.maxPage ∧ txRow s = { s with
      seq := { s.seq with txPage := s.seq.txPage + 1 }
      bus := s.bus ++ txPayload s.cfg (boxRow s.canvas s.seq.txPage s.seq.minCol s.seq.maxCol) }) ∨
    (s.seq.maxPage < s.seq.txPage + 1 ∧ txRow s = { s with
      seq := { s.seq with txPage := s.seq.txPage + 1 }
      bus := s.bus ++ txPayload s.cfg (boxRow s.canvas s.seq.txPage s.seq.minCol s.seq.maxCol)
      syncState := .idle, busy := false }) := by
  unfold txRow
  dsimp only [emit, txEnd, endCommand]
  split
  · next h => exact .inr ⟨h, rfl⟩
  · next h => exact .inl ⟨by omega, rfl⟩

/-- The setup programs the display's registers and names the first page. -/
theorem setup_eq (s : State) :
    setup s = { s with
      seq := { s.seq with txPage := s.seq.minPage, phase := .tx }, bus := s.bus ++ setupEvents s.cfg s.seq } := rfl

/-! ### One step -/

/-- A step is the unit's turn or one host move, on the state with that turn taken. -/
theorem step_cases (s : State) :
    (s.turns = [] ∧ step s = unitTurn s) ∨
    (∃ rest, s.turns = .unit :: rest ∧ step s = unitTurn (setTurns s rest)) ∨
    ∃ m rest, s.turns = .host m :: rest ∧ step s = hostMove m (setTurns s rest) := by
  unfold step
  cases h : s.turns with
  | nil => exact .inl ⟨rfl, rfl⟩
  | cons x rest =>
    cases x with
    | unit => exact .inr (.inl ⟨rest, rfl, rfl⟩)
    | host m => exact .inr (.inr ⟨m, rest, rfl, rfl⟩)

/-- The unit's turn runs the command in progress, or changes nothing. -/
theorem unitTurn_cases (s : State) :
    (s.busy = true ∧ s.fault = false ∧ unitTurn s = exec s.current s) ∨
    ((s.busy = false ∨ s.fault = true) ∧ unitTurn s = .next s) := by
  unfold unitTurn unitEnabled
  cases hb : s.busy <;> cases hf : s.fault <;> simp

end Sys2Proof.Machine
end

