-- ==== Sys2Proof/Laws/Sync.lean ====
section
/-!
SUPPORT. The laws of SYNC's shared operations: bus events come in whole transactions, and a page scan copies the page.
-/

namespace Sys2Proof.Machine

theorem busPlace_append (p : BusPlace) (es fs : List BusEvent) :
    busPlace p (es ++ fs) = (busPlace p es).bind (fun q => busPlace q fs) := by
  simp [busPlace, List.foldlM_append]

/-- A trace of whole transactions goes on with whole transactions. -/
theorem busClosed_append {es fs : List BusEvent} (h : busClosed es) (k : busClosed fs) : busClosed (es ++ fs) := by
  unfold busClosed at *
  rw [busPlace_append, h]
  exact k

theorem busClosed_setupEvents (g : Config) (q : Seq) : busClosed (setupEvents g q) := rfl

/-- Between two payload bytes the trace is between transactions if the packet is empty, and inside one if not. -/
theorem busPlace_txByte (g : Config) (acc : Nat × List BusEvent) (b : Byte)
    (h : busPlace .between acc.2 = some (if acc.1 = 0 then .between else .data)) :
    busPlace .between (txByte g acc b).2 = some (if (txByte g acc b).1 = 0 then .between else .data) := by
  obtain ⟨k, es⟩ := acc
  unfold txByte
  by_cases hk : k = 0
  · subst hk
    simp only [if_true] at h
    simp [busPlace_append, h]
    rfl
  · simp only [if_neg hk] at h
    by_cases h16 : k + 1 = 16
    · simp [busPlace_append, h, hk, h16]
      rfl
    · simp [busPlace_append, h, hk, h16]
      rfl

/-- One page's payload is whole packets. -/
theorem busClosed_txPayload (g : Config) (bytes : List Byte) : busClosed (txPayload g bytes) := by
  have inv : ∀ (l : List Byte) (acc : Nat × List BusEvent),
      busPlace .between acc.2 = some (if acc.1 = 0 then .between else .data) →
      busPlace .between (l.foldl (txByte g) acc).2 =
        some (if (l.foldl (txByte g) acc).1 = 0 then .between else .data) := by
    intro l
    induction l with
    | nil => exact fun _ h => h
    | cons b l ih => exact fun acc h => ih _ (busPlace_txByte g acc b h)
  have h := inv bytes (0, []) rfl
  unfold busClosed txPayload
  dsimp only
  split
  · next h0 => simpa [h0] using h
  · next h0 =>
    rw [busPlace_append, h, if_neg h0]
    rfl

/-- One byte of the scan copies that byte into the shadow, whether or not it differed. -/
theorem scanByte_shadow (canvas : Memory) (p : Nat) (acc : Memory × Seq) (c : Nat) :
    (scanByte canvas p acc c).1 = acc.1.write (c + p * 128) (canvas.read (c + p * 128)) := rfl

/-- The first n bytes of a page scan copy the first n bytes of the page into the shadow and change nothing else. -/
theorem read_scanBytes (canvas shadow : Memory) (q : Seq) (p n : Nat) (a : Nat) :
    Memory.read ((List.range n).foldl (scanByte canvas p) (shadow, q)).1 a =
      if p * 128 ≤ a ∧ a < p * 128 + n then Memory.read canvas a else Memory.read shadow a := by
  induction n with
  | zero => rw [if_neg (by omega)]; rfl
  | succ n ih =>
    rw [List.range_succ, List.foldl_append, List.foldl_cons, List.foldl_nil]
    rw [scanByte_shadow, Memory.read_write, ih]
    by_cases ha : a = n + p * 128
    · rw [if_pos ha, if_pos (by omega), ha]
    · rw [if_neg ha]
      by_cases hb : p * 128 ≤ a ∧ a < p * 128 + n
      · rw [if_pos hb, if_pos (by omega)]
      · rw [if_neg hb, if_neg (by omega)]

/-- A page scan copies its page of C into S, and no other byte of S changes. -/
theorem read_scanPage (canvas shadow : Memory) (q : Seq) (p a : Nat) :
    Memory.read (scanPage canvas shadow q p).1 a =
      if a / 128 = p then Memory.read canvas a else Memory.read shadow a := by
  unfold scanPage
  rw [read_scanBytes]
  by_cases ha : a / 128 = p
  · rw [if_pos ha, if_pos (by omega)]
  · rw [if_neg ha, if_neg (by omega)]

/-- Expanding by one column touches the running box and nothing else of the sequencer. -/
theorem expandBox_frame (q : Seq) (p c : Nat) :
    (expandBox q p c).phase = q.phase ∧ (expandBox q p c).scanPage = q.scanPage ∧ (expandBox q p c).txPage = q.txPage := by
  unfold expandBox
  split <;> exact ⟨rfl, rfl, rfl⟩

/-- One column that differs widens the running box to itself and no further. -/
theorem boxGrows_expandBox {q r : Seq} {p n : Nat} {D : Nat → Prop} (h : boxGrows q r p D) :
    boxGrows q (expandBox r p n) p (fun c => D c ∨ c = n) := by
  refine ⟨fun hn => absurd (.inr rfl) (hn n), fun _ => ?_⟩
  by_cases hD : ∃ c, D c
  · obtain ⟨hf, hb, hl, hu, ht, hff⟩ := h.2 hD
    simp only [expandBox, hf, if_true]
    refine ⟨trivial, ?_, ?_, ?_, fun hq => ?_, fun hq => ?_⟩
    · rintro c (hc | rfl)
      · have := hb c hc
        omega
      · omega
    · rcases Nat.le_total r.minCol n with hm | hm
      · rw [Nat.min_eq_left hm]
        exact hl.imp .inl id
      · exact .inl (.inr (Nat.min_eq_right hm))
    · rcases Nat.le_total r.maxCol n with hm | hm
      · exact .inl (.inr (Nat.max_eq_right hm))
      · rw [Nat.max_eq_left hm]
        exact hu.imp .inl id
    · have := ht hq
      omega
    · have := hff hq
      omega
  · obtain ⟨hf, h1, h2, h3, h4⟩ := h.1 (fun c hc => hD ⟨c, hc⟩)
    have hno : ∀ c, ¬ D c := fun c hc => hD ⟨c, hc⟩
    cases hq : q.found with
    | true =>
      rw [hq] at hf
      simp only [expandBox, hf, if_true]
      refine ⟨trivial, ?_, ?_, ?_, fun _ => by omega, fun hc => by cases hc⟩
      · rintro c (hc | rfl)
        · exact absurd hc (hno c)
        · omega
      · rcases Nat.le_total r.minCol n with hm | hm
        · exact .inr ⟨trivial, by omega⟩
        · exact .inl (.inr (Nat.min_eq_right hm))
      · rcases Nat.le_total r.maxCol n with hm | hm
        · exact .inl (.inr (Nat.max_eq_right hm))
        · exact .inr ⟨trivial, by omega⟩
    | false =>
      rw [hq] at hf
      simp only [expandBox, hf, Bool.false_eq_true, if_false]
      refine ⟨trivial, ?_, .inl (.inr trivial), .inl (.inr trivial), by simp⟩
      rintro c (hc | rfl)
      · exact absurd hc (hno c)
      · exact ⟨Nat.le_refl _, Nat.le_refl _⟩

/-- `boxGrows` looks at its set of columns only through its members. -/
theorem boxGrows_congr {q r : Seq} {p : Nat} {D E : Nat → Prop} (hDE : ∀ c, D c ↔ E c) (h : boxGrows q r p D) :
    boxGrows q r p E := by
  have : D = E := funext fun c => propext (hDE c)
  exact this ▸ h

/-- The first n bytes of a page scan widen the running box to exactly the columns below n that differ, and leave the
rest of the sequencer alone. -/
theorem boxGrows_scanBytes (canvas shadow : Memory) (q : Seq) (p n : Nat) :
    let r := ((List.range n).foldl (scanByte canvas p) (shadow, q)).2
    boxGrows q r p (fun c => c < n ∧ Memory.read canvas (c + p * 128) ≠ Memory.read shadow (c + p * 128)) ∧
      r.phase = q.phase ∧ r.scanPage = q.scanPage ∧ r.txPage = q.txPage := by
  induction n with
  | zero =>
    exact ⟨⟨fun _ => ⟨rfl, rfl, rfl, rfl, rfl⟩, fun h => absurd h.choose_spec.1 (Nat.not_lt_zero _)⟩, rfl, rfl, rfl⟩
  | succ n ih =>
    obtain ⟨hb, hp, hs, ht⟩ := ih
    have hsh : Memory.read ((List.range n).foldl (scanByte canvas p) (shadow, q)).1 (n + p * 128) =
        Memory.read shadow (n + p * 128) := by
      rw [read_scanBytes, if_neg (by omega)]
    rw [List.range_succ, List.foldl_append, List.foldl_cons, List.foldl_nil]
    simp only [scanByte, hsh]
    by_cases hd : Memory.read canvas (n + p * 128) ≠ Memory.read shadow (n + p * 128)
    · rw [if_pos hd]
      obtain ⟨fp, fs, ft⟩ := expandBox_frame ((List.range n).foldl (scanByte canvas p) (shadow, q)).2 p n
      refine ⟨boxGrows_congr (fun c => ?_) (boxGrows_expandBox hb), fp.trans hp, fs.trans hs, ft.trans ht⟩
      constructor
      · rintro (⟨hc, hne⟩ | rfl)
        · exact ⟨by omega, hne⟩
        · exact ⟨by omega, hd⟩
      · rintro ⟨hc, hne⟩
        by_cases hcn : c = n
        · exact .inr hcn
        · exact .inl ⟨by omega, hne⟩
    · rw [if_neg hd]
      refine ⟨boxGrows_congr (fun c => ⟨fun h => ⟨by omega, h.2⟩, fun h => ⟨?_, h.2⟩⟩) hb, hp, hs, ht⟩
      by_cases hcn : c = n
      · exact absurd (hcn ▸ h.2) hd
      · omega

/-- A page scan widens the running box to exactly the columns of the page that differ, and leaves the rest of the
sequencer alone. -/
theorem boxGrows_scanPage (canvas shadow : Memory) (q : Seq) (p : Nat) :
    boxGrows q (scanPage canvas shadow q p).2 p (differsAt canvas shadow p) ∧
      (scanPage canvas shadow q p).2.phase = q.phase ∧ (scanPage canvas shadow q p).2.scanPage = q.scanPage ∧
      (scanPage canvas shadow q p).2.txPage = q.txPage :=
  boxGrows_scanBytes canvas shadow q p 128

/-- A page scan of the canvas keeps the canonical form of the shadow. -/
theorem wf_scanPage {shadow : Memory} (h : Memory.wf 1024 shadow = true) (canvas : Memory) (q : Seq) {p : Nat}
    (hp : p < 8) : Memory.wf 1024 (scanPage canvas shadow q p).1 = true := by
  have main : ∀ n, n ≤ 128 →
      Memory.wf 1024 ((List.range n).foldl (scanByte canvas p) (shadow, q)).1 = true := by
    intro n
    induction n with
    | zero => exact fun _ => h
    | succ n ih =>
      intro hn
      rw [List.range_succ, List.foldl_append, List.foldl_cons, List.foldl_nil]
      exact Memory.wf_write (ih (by omega)) (by omega) _
  exact main 128 (Nat.le_refl _)

end Sys2Proof.Machine
end

