-- ==== Sys2Proof/Tests/Slice0.lean ====
section
/-!
SUPPORT. The model's own tests, on values of spec/95_test_vectors.md and of the rules named, and a witness for the
hypotheses of each statement that has some.
-/

namespace Sys2Proof.Tests

open Sys2Proof Sys2Proof.Machine

/-! ### States -/

/-- A unit after a successful INIT ("booted", 95_test_vectors.md section 0). -/
def booted : State := { State.reset with ready := true }

/-- Booted, with these latched operands, colour, source bytes and canvas, and command i in progress. -/
def running (i : Instr) (ops : List Int) (col : Color := .set) (src : List Byte := []) (canvas : Memory := []) : State :=
  { booted with
    busy := true, current := i, canvas := canvas
    src := src.zipIdx.map (fun p => (p.2, p.1))
    cfg := { Config.default with srcSize := src.length }
    latched := ⟨Vector.ofFn (fun n => word16 (ops.getD n.val 0)), col⟩ }

/-- A SYNC at a scan page, on this canvas and shadow. -/
def scanning (page : Nat) (canvas shadow : Memory) : State :=
  { running .sync [] with
    canvas := canvas, shadow := shadow, syncState := .scanning, seq := ⟨.scan, page, false, 0, 0, 0, 0, 0⟩ }

/-- A SYNC about to transmit this box. -/
def transmitting (minCol maxCol minPage maxPage : Nat) (canvas : Memory) : State :=
  { running .sync [] with
    canvas := canvas, shadow := canvas, syncState := .transmitting, bboxValid := true
    bbox := ⟨BitVec.ofNat 8 minCol, BitVec.ofNat 8 maxCol, BitVec.ofNat 8 minPage, BitVec.ofNat 8 maxPage⟩
    seq := ⟨.setup, 8, true, minCol, maxCol, minPage, maxPage, 0⟩ }

/-- Without DOUBLE_BUFFER. -/
def unbuffered (s : State) : State := { s with cfg := { s.cfg with doubleBuffer := false } }

/-- FAULT = 1 with this cause. -/
def faulted (c : Cause) : State := { booted with fault := true, cause := c }

/-- The state with one host turn next. -/
def hosted (m : HostMove) (s : State) : State := { s with turns := [.host m] }

/-- One field of the next state. -/
def after {α : Type} (o : Host.Outcome State Fault Refusal) (f : State → α) : Option α :=
  match o with
  | .next t => some (f t)
  | .fault _ => none
  | .refused _ => none

/-! ### Decoding: words written out from R92 and R95 -/

theorem test_decode_nop : decode? 0b0000000000000000 = some .nop := by decide
theorem test_decode_init : decode? 0b0000000000000001 = some .init := by decide
theorem test_decode_clear : decode? 0b0000000000000010 = some .clear := by decide
theorem test_decode_setpixel : decode? 0b0000000000000011 = some .setpixel := by decide
theorem test_decode_hline : decode? 0b0000000000000100 = some .hline := by decide
theorem test_decode_vline : decode? 0b0000000000000101 = some .vline := by decide
theorem test_decode_rect : decode? 0b0000000000000110 = some .rect := by decide
theorem test_decode_fillrect : decode? 0b0000000000000111 = some .fillrect := by decide
theorem test_decode_blit : decode? 0b0000000000001000 = some .blit := by decide
theorem test_decode_blitrow : decode? 0b0000000000001001 = some .blitrow := by decide
theorem test_decode_sync : decode? 0b0000000000001010 = some .sync := by decide
theorem test_decode_reserved_opcode : decode 0x000B = .error .reservedOpcode := by decide
theorem test_decode_reserved_bits : decode 0x0100 = .error .reservedBits := by decide
theorem test_decode_last_word : decode? 0xFFFF = none := by decide
theorem test_decode_table_word : decodeTableWord 16 0x000A = some .sync := by decide
theorem test_decode_table_word_wide : decodeTableWord 24 0x01000A = none := by decide

/-! ### Encoding of statements (95_test_vectors.md section 2) -/

theorem test_encode_setpixel : Stmt.writes (.setpixel 3 (-1)) = [(0x8, 0x0003), (0x9, 0xFFFF), (0x0, 0x0003)] := by decide
theorem test_encode_rect :
    Stmt.writes (.rect 126 62 4 4) =
      [(0x8, 0x007E), (0x9, 0x003E), (0xA, 0x0004), (0xB, 0x0004), (0x0, 0x0006)] := by decide
theorem test_encode_blitrow :
    Stmt.writes (.blitrow 2 2 8 4 0x12345) =
      [(0x8, 0x0002), (0x9, 0x0002), (0xA, 0x0008), (0xB, 0x0004), (0xC, 0x2345), (0xD, 0x0001), (0x0, 0x0009)] := by
  decide

/-! ### Ill-formed terms are refused (R99, R101, R7) -/

theorem test_wf_commands :
    [Instr.nop, .init, .clear, .setpixel, .hline, .vline, .rect, .fillrect, .blit, .blitrow, .sync].all Instr.wf := by
  decide
theorem test_wf_write_too_large : Stmt.wf (.wr (.arg 0) 65536) = false := by decide
theorem test_wf_setpixel_too_small : Stmt.wf (.setpixel (-32769) 0) = false := by decide
theorem test_wf_line_too_large : Stmt.wf (.hline 0 65536 1) = false ∧ Stmt.wf (.vline 0 0 65536) = false := by decide
theorem test_wf_rect_too_large : Stmt.wf (.rect 0 0 65536 1) = false ∧ Stmt.wf (.fillrect 0 0 1 65536) = false := by
  decide
theorem test_wf_blit_source_too_large : Stmt.wf (.blit 0 0 1 8 4294967296 0 1) = false := by decide
theorem test_wf_blitrow_source_negative : Stmt.wf (.blitrow 0 0 1 8 (-1)) = false := by decide
theorem test_wf_glyph_size_too_large : Stmt.wf (.glyph 0 0 1 8 0 0 65536) = false := by decide
theorem test_wf_blitraw_count : Stmt.wf (.blitraw 0 0 8191 64 0) = true ∧ Stmt.wf (.blitraw 0 0 8192 64 0) = false ∧
    Stmt.wf (.blitraw 0 0 (-1) 8 0) = false := by decide
theorem test_assemble_rejects : assemble (.blitraw 0 0 8192 64 0) = none := by decide
theorem test_wf_config : Config.wf { Config.default with srcSize := 2 ^ 32 + 1 } = false := by decide

/-! ### Reset and registers (V-C1, V-C2, V-C8 to V-C11, R110) -/

theorem test_reset_status : regRead State.reset 0x1 = 0x0040 ∧ regRead State.reset 0x2 = 0x0001 := by decide
theorem test_reset_status_unbuffered : statusWord (unbuffered State.reset) = 0x0000 := by decide
theorem test_write_color_ignores_high_bits :
    colorWord (regWrite booted 0x2 0xFFFE) = 0x0002 ∧ colorWord (regWrite booted 0x2 5) = 0x0001 := by decide
theorem test_write_read_only : regWrite booted 0x1 0xFFFF = booted ∧ regRead (regWrite booted 0x6 0x1234) 0x6 = 0 := by
  decide
theorem test_write_arg : regRead (regWrite booted 0xF 0xBEEF) 0xF = 0xBEEF := by decide
theorem test_bbox_words : bboxColWord (transmitting 5 100 0 6 []) = 0x6405 ∧
    bboxPageWord (transmitting 5 100 0 6 []) = 0x0600 := by decide
theorem test_status_transmitting : statusWord (transmitting 0 0 0 0 []) = 0x00CB := by decide

/-! ### Faults (V-F1, V-F6, V-F7, V-F9, V-F11) -/

theorem test_not_ready : after (step (hosted (.write 0x0 0x0003) State.reset)) statusWord = some 0x0050 := by decide
theorem test_illegal_before_not_ready : (issueCommand State.reset 0x0103).cause = .illegalOpcode := by decide
theorem test_illegal_color : (colorWrite booted 3).cause = .illegalColor ∧ (colorWrite booted 3).color = .set := by decide
theorem test_busy_before_illegal : (issueCommand (running .setpixel []) 0x000B).cause = .busyViolation := by decide
theorem test_fault_stops_sync : statusWord (issueCommand (scanning 1 [] []) 0x0000) = 0x0051 := by decide
theorem test_writes_ignored_after_fault : regWrite (faulted .illegalColor) 0x8 5 = faulted .illegalColor := by decide

/-! ### One step of each command -/

/-- V-C3. -/
theorem test_nop : after (exec .nop (running .nop [])) statusWord = some 0x0041 := by decide
/-- V-C4. -/
theorem test_init_ok :
    after (exec .init { State.reset with busy := true, canvas := [(3, 0x01)], initOutcomes := [true] })
      (fun t => (statusWord t, t.canvas)) = some (0x0041, []) := by decide
/-- V-C7. -/
theorem test_init_fail :
    after (exec .init { booted with busy := true, initOutcomes := [false] }) statusWord = some 0x0060 := by decide
/-- V-P52. -/
theorem test_clear :
    after (exec .clear (running .clear [] .invert [] [(0, 0xFF), (517, 0x3C), (1023, 0xAA)])) State.canvas = some [] := by
  decide
/-- V-P2. -/
theorem test_setpixel_last :
    after (exec .setpixel (running .setpixel [127, 63])) State.canvas = some [(1023, 0x80)] := by decide
/-- V-P7. -/
theorem test_setpixel_clear :
    after (exec .setpixel (running .setpixel [3, 10] .clear [] [(131, 0xFF)])) State.canvas = some [(131, 0xFB)] := by
  decide
/-- V-P12. -/
theorem test_hline_negative_start :
    after (exec .hline (running .hline [-2, 9, 5])) State.canvas = some [(128, 0x02), (129, 0x02), (130, 0x02)] := by
  decide
/-- V-P20. -/
theorem test_hline_invert :
    after (exec .hline (running .hline [0, 7, 3] .invert [] [(0, 0x80), (2, 0x80)])) State.canvas = some [(1, 0x80)] := by
  decide
/-- V-P23. -/
theorem test_vline_two_pages :
    after (exec .vline (running .vline [0, 5, 6])) State.canvas = some [(0, 0xE0), (128, 0x07)] := by decide
/-- R124, by hand: rows 61 to 63, the length truncated at the bottom edge. -/
theorem test_vline_bottom :
    after (exec .vline (running .vline [127, 61, 100])) State.canvas = some [(1023, 0xE0)] := by decide
/-- R126, by hand: under INVERT the four corners are covered twice and stay, the other edge pixels toggle. -/
theorem test_rect_invert_corners :
    after (exec .rect (running .rect [0, 0, 3, 3] .invert)) State.canvas = some [(0, 0x02), (1, 0x05), (2, 0x02)] := by
  decide
/-- R126, by hand: the right and the bottom edge of `rect 126, 62, 4, 4` are outside. -/
theorem test_rect_clipped :
    after (exec .rect (running .rect [126, 62, 4, 4])) State.canvas = some [(1022, 0xC0), (1023, 0x40)] := by decide
/-- V-P46. -/
theorem test_fillrect_two_pages :
    after (exec .fillrect (running .fillrect [0, 6, 2, 4])) State.canvas =
      some [(0, 0xC0), (1, 0xC0), (128, 0x03), (129, 0x03)] := by decide
/-- V-P49. -/
theorem test_fillrect_corner :
    after (exec .fillrect (running .fillrect [-1, -1, 2, 2])) State.canvas = some [(0, 0x01)] := by decide
/-- V-B1. -/
theorem test_blit_spill :
    after (exec .blit (running .blit [0, 3, 1, 16, 0, 0, 0, 2] .set [0xFF, 0x81])) State.canvas =
      some [(0, 0xF8), (128, 0x0F), (256, 0x04)] := by decide
/-- V-B16. -/
theorem test_blit_source_range :
    after (exec .blit (running .blit [0, 0, 1, 8, 0, 0, 0, 3] .set [0x01, 0x02])) (fun t => (t.cause, t.canvas)) =
      some (.sourceRange, []) := by decide
/-- V-R1. -/
theorem test_blitrow_stream :
    after (exec .blitrow (running .blitrow [0, 0, 3, 2] .set [0xB4])) State.canvas = some [(0, 0x03), (2, 0x03)] := by
  decide
/-- V-R7. -/
theorem test_blitrow_source_range :
    after (exec .blitrow (running .blitrow [0, 0, 5, 2] .set [0xFF])) (fun t => (t.cause, t.canvas)) =
      some (.sourceRange, []) := by decide
set_option maxRecDepth 4000 in
/-- R162, by hand: the byte that differs is found and copied. -/
theorem test_sync_scan :
    after (exec .sync (scanning 1 [(131, 0x04)] [])) (fun t => (t.shadow, t.seq)) =
      some ([(131, 0x04)], ⟨.scan, 2, true, 3, 3, 1, 1, 0⟩) := by decide
/-- The bus trace of V-S1. -/
theorem test_sync_transmit :
    after (exec .sync (transmitting 0 0 0 0 [(0, 0x01)])) (fun t => (t.bus, statusWord t)) =
      some ([.begin 0x3C, .write 0x80, .write 0x21, .finish, .begin 0x3C, .write 0x80, .write 0x00, .finish,
        .begin 0x3C, .write 0x80, .write 0x00, .finish, .begin 0x3C, .write 0x80, .write 0x22, .finish,
        .begin 0x3C, .write 0x80, .write 0x00, .finish, .begin 0x3C, .write 0x80, .write 0x00, .finish,
        .begin 0x3C, .write 0x40, .write 0x01, .finish], 0x00C1) := by decide

/-! ### Steps -/

theorem test_placed_word_runs : after (step (State.reset.withFetchWord 16 0x0000)) statusWord = some 0x0040 := by decide
theorem test_placed_illegal_word : after (step (State.reset.withFetchWord 16 0x0100)) statusWord = some 0x0050 := by decide
theorem test_reset_input : after (step (hosted .reset (faulted .sourceRange))) statusWord = some 0x0040 := by decide
theorem test_debug_read_refused : hostMove (.debugCanvas 0) State.reset = .refused .debugReadNotReady := rfl
theorem test_poll_while_busy :
    after (step (hosted .waitIdle (running .nop []))) State.turns = some [.unit, .host .waitIdle] := by decide

/-! ### Witnesses for the hypotheses of the statements -/

/-- A ready unit with eight operands, and an unready one with INIT and none. -/
theorem witness_AssembledCommandIsAccepted :
    ([0, 1, 2, 3, 4, 5, 6, 7] : List Int).length ≤ 8 ∧ booted.fault = false ∧ booted.busy = false ∧ booted.ready = true ∧
      State.reset.fault = false ∧ State.reset.busy = false ∧ (State.reset.ready = true ∨ Instr.init = .init) := by decide

theorem witness_PseudoInstructionsExpand :
    Stmt.wf (.blitrow 0 0 8192 64 0xFFFFFFFF) = true ∧ 65535 < (8192 : Int) * ceil8 64 ∧
      Stmt.wf (.blitrow 0 0 (-1) 8 0) = true ∧ (-1 : Int) * ceil8 8 < 0 ∧
      Stmt.wf (.blitrow 0 0 65535 8 0) = true ∧ ¬ 65535 < (65535 : Int) * ceil8 8 := by decide

/-- Both ends of each slot, and the largest source address. -/
theorem witness_OperandsReadBack :
    (let l := (running .hline [-32768, 32767]).latched
     l.arg.get 0 = word16 (-32768) ∧ l.arg.get 1 = word16 32767 ∧ l.s16 0 = -32768) ∧
      (let l := (running .blit [0, 0, 0, 0, 0xFFFF, 0xFFFF, 65535, 0]).latched
       l.arg.get 6 = word16 65535 ∧ l.arg.get 7 = word16 0 ∧
        [l.arg.get 4, l.arg.get 5] = (srcHalves 0xFFFFFFFF).map word16 ∧ l.srcBase = 0xFFFFFFFF) := by decide

/-- FAULT = 1 and FAULT = 0; the first and the last offset of each clause. -/
theorem witness_RegisterWriteMap :
    (faulted .notReady).fault = true ∧ booted.fault = false ∧ (0x8 : BitVec 4) = BitVec.ofNat 4 (8 + (0 : Fin 8).val) ∧
      (0xF : BitVec 4) = BitVec.ofNat 4 (8 + (7 : Fin 8).val) := by decide

theorem witness_ColorWriteTakesLowBits :
    booted.fault = false ∧ (0xFFFC : Word).extractLsb' 0 2 = 0 ∧ (0x0005 : Word).extractLsb' 0 2 = 1 ∧
      (0xFFFE : Word).extractLsb' 0 2 = 2 ∧ (0xFFFF : Word).extractLsb' 0 2 = 3 := by decide

theorem witness_ArgWriteTakesEffectAtOnce :
    (running .sync []).fault = false ∧ (7 : Fin 8) ≠ 0 ∧
      regRead (regWrite (running .sync []) 0xF 0xBEEF) 0xF = 0xBEEF := by decide

theorem witness_CommandIssueChecksInOrder :
    (faulted .notReady).fault = true ∧ ((running .nop []).fault = false ∧ (running .nop []).busy = true) ∧
      (booted.fault = false ∧ booted.busy = false ∧ 0x0A < (opField 0x000B).toNat ∧ rsvField 0x0100 ≠ 0) ∧
      (State.reset.fault = false ∧ State.reset.busy = false ∧ (0x0002 : Word) = encode .clear ∧
        State.reset.ready = false ∧ Instr.clear ≠ .nop ∧ Instr.clear ≠ .init) ∧
      (booted.ready = true ∧ (0x000A : Word) = encode .sync) := by decide

theorem witness_FaultLatchRecordsFirstCause :
    (booted.fault = false ∧ booted.busy = false) ∧
      ((running .sync []).fault = false ∧ (running .sync []).busy = true) ∧
      ((faulted .notReady).fault = true ∧ (faulted .notReady).busy = false) ∧
      (({ running .sync [] with fault := true } : State).fault = true) ∧
      (running .blit [0, 0, 1, 8, 0, 0, 0, 1]).fault = false ∧
      after (exec .blit (running .blit [0, 0, 1, 8, 0, 0, 0, 1])) State.fault = some true := by decide

theorem witness_FaultFreezesTheUnit :
    (faulted .notReady).cfg.doubleBuffer = true ∧ (hosted (.write 0x8 5) (faulted .notReady)).fault = true ∧ (faulted .notReady).ready = true ∧
      ¬ hostMoves (hosted (.write 0x8 5) (faulted .notReady)) .reset ∧
      ∃ t : State, step (hosted (.write 0x8 5) (faulted .notReady)) = .next t :=
  ⟨rfl, rfl, rfl, by unfold hostMoves; decide, _, rfl⟩

/-- One step for each cause. -/
theorem witness_EachCauseHasItsCondition :
    after (step (hosted (.write 0x0 0x0002) State.reset)) State.cause = some .notReady ∧
      after (step (hosted (.write 0x0 0x000B) booted)) State.cause = some .illegalOpcode ∧
      after (step (hosted (.write 0x2 0xFFFF) booted)) State.cause = some .illegalColor ∧
      after (step (hosted (.write 0x0 0x0000) (running .nop []))) State.cause = some .busyViolation ∧
      after (step (running .blit [0, 0, 1, 8, 0, 0, 0, 1])) State.cause = some .sourceRange ∧
      after (step (running .blitrow [0, 0, 1, 1, 0, 0])) State.cause = some .sourceRange ∧
      State.reset.fault = false ∧ booted.fault = false ∧ (running .nop []).fault = false := by decide

theorem witness_DebugPortReadsWhenReady :
    booted.ready = true ∧ State.reset.ready = false ∧ booted.cfg.doubleBuffer = true ∧
      State.reset.cfg.doubleBuffer = true := by decide

/-- The last address that exists and the first that does not. -/
theorem witness_HostAccessesOutsideThePbu :
    (unbuffered booted).cfg.doubleBuffer = false ∧ booted.cfg.srcSize ≤ 4294967296 ∧
      (4294967295 < booted.cfg.srcSize ∧ booted.busy = false) ∧
      (0 < (running .blit [] .set [0]).cfg.srcSize ∧ (running .blit [] .set [0]).busy = true ∧
        (running .blit [] .set [0]).current = .blit) := by decide

theorem witness_NopOnlyClearsBusy : State.reset.fault = false ∧ State.reset.busy = false ∧
    (running .nop []).fault = false ∧ (running .nop []).busy = true := by decide

theorem witness_InitReportsItsOutcome :
    State.reset.fault = false ∧ State.reset.busy = false ∧
      initOutcome { booted with initOutcomes := [true] } = true ∧ initOutcome { booted with initOutcomes := [false] } = false ∧
      booted.cfg.doubleBuffer = true ∧ (unbuffered booted).cfg.doubleBuffer = false := by decide

theorem witness_InvertSetPixelTwiceRestores :
    (running .setpixel [3, 10] .invert).latched.color = .invert := by decide

theorem witness_VLineEqualsPixelByPixel :
    0 ≤ (running .vline [127, -3, 70]).latched.s16 0 ∧ (running .vline [127, -3, 70]).latched.s16 0 < 128 := by decide

theorem witness_RectComposesFourEdges :
    0 < (running .rect [0, 0, 1, 1]).latched.s16 2 ∧ 0 < (running .rect [0, 0, 1, 1]).latched.s16 3 ∧
      inCanvas 0 0 = true ∧ (running .rect [0, 0, 0, 1]).latched.s16 2 ≤ 0 := by decide

/-- A pixel the figure covers and one it does not, each colour, and a figure that is all outside. -/
theorem witness_ClippingLaws :
    namesFigure .rect ∧ inCanvas 127 63 = true ∧
      cover .rect (running .rect [0, 0, 2, 2]).latched 127 63 = 0 ∧
      cover .rect (running .rect [0, 0, 1, 1] .invert).latched 0 0 = 4 ∧
      (running .rect []).latched.color = .set ∧ (running .rect [] .clear).latched.color = .clear ∧
      (running .rect [] .invert).latched.color = .invert ∧
      pixel [(0, 0x01)] 0 0 = true ∧ pixel [] 0 0 = false := by unfold namesFigure; decide

theorem witness_ClippingLaws_outside :
    ∀ px py : Int, inCanvas px py = true → cover .setpixel (running .setpixel [128, 0]).latched px py = 0 := by
  intro px py h
  have hx : (running .setpixel [128, 0]).latched.s16 0 = 128 := by decide
  simp only [inCanvas, Bool.and_eq_true, decide_eq_true_eq] at h
  simp only [cover, hx, ite_eq_right_iff]
  omega

theorem witness_ComposeActsOnOneByte : (0 : Int) ≤ 1023 ∧ (1023 : Int) < 1024 ∧ (7 : Nat) ≠ (1023 : Int).toNat := by decide

theorem witness_LanesAreIndependent : (0 : Int) ≤ 1023 ∧ (1023 : Int) < 1024 ∧ 7 < 8 := by decide

theorem witness_DrawingStaysInsideTheCanvas :
    Memory.wf 1024 (running .hline [-2, 9, 5]).canvas = true ∧
      after (exec .hline (running .hline [-2, 9, 5])) State.busy = some false ∧
      Memory.wf 1024 (running .init [] .set [] [(1023, 0x80)]).canvas = true ∧
      after (exec .init (running .init [] .set [] [(1023, 0x80)])) State.busy = some false := by decide

/-- Malformed, out of the source, and the last byte of the source. -/
theorem witness_BlitComposesItsSetBits :
    (running .blit [0, 0, -1, 8]).latched.s16 2 < 0 ∧
      (let s := running .blit [0, 0, 0, 8, 1, 0, 1, 1] .set [1, 2]
       0 ≤ s.latched.s16 2 ∧ 0 < s.latched.s16 3 ∧ s.latched.u16 7 ≠ 0 ∧
        (s.cfg.srcSize : Int) < s.latched.u16 5 * 65536 + s.latched.u16 4 + s.latched.u16 6 + s.latched.u16 7) ∧
      (let s := running .blit [0, 0, 0, 8, 1, 0, 0, 1] .set [1, 2]
       0 ≤ s.latched.s16 2 ∧ 0 < s.latched.s16 3 ∧
        s.latched.u16 5 * 65536 + s.latched.u16 4 + s.latched.u16 6 + s.latched.u16 7 ≤ (s.cfg.srcSize : Int)) ∧
      (running .blit [0, 0, 1, 8, 0, 0, 0, 0]).latched.u16 7 = 0 := by decide

theorem witness_BlitSetThenInvertClears :
    (let s := running .blit [0, 0, 5, 8, 0, 0, 0, 5] .set [0x7E, 0x11, 0x11, 0x11, 0x7E]
     0 ≤ s.latched.s16 2 ∧ 0 < s.latched.s16 3 ∧
      s.latched.srcBase + s.latched.u16 6 + s.latched.u16 7 ≤ (s.cfg.srcSize : Int) ∧ s.latched.color = .set) ∧
    ∀ a : Nat, Memory.read (running .blit [0, 0, 5, 8, 0, 0, 0, 5] .set [0x7E, 0x11, 0x11, 0x11, 0x7E]).canvas a = 0x00 :=
  ⟨by decide, fun _ => rfl⟩

theorem witness_BlitRowComposesItsSetBits :
    (running .blitrow [0, 0, 0, 2]).latched.s16 2 ≤ 0 ∧
      (let s := running .blitrow [0, 0, 5, 2] .set [0xFF]
       0 < s.latched.s16 2 ∧ 0 < s.latched.s16 3 ∧
        (s.cfg.srcSize : Int) < s.latched.u16 5 * 65536 + s.latched.u16 4 + ceil8 (s.latched.s16 2 * s.latched.s16 3)) ∧
      (let s := running .blitrow [0, 0, 4, 2] .set [0xFF]
       0 < s.latched.s16 2 ∧ 0 < s.latched.s16 3 ∧
        s.latched.u16 5 * 65536 + s.latched.u16 4 + ceil8 (s.latched.s16 2 * s.latched.s16 3) ≤ (s.cfg.srcSize : Int)) := by
  decide

theorem witness_CommandsReadOnlyLatchedOperands :
    ∃ t : State, exec .setpixel (running .setpixel [3, 10]) = .next t := ⟨_, rfl⟩

theorem witness_SyncAcceptanceStartsItsFirstPhase :
    booted.fault = false ∧ booted.busy = false ∧ booted.ready = true ∧ booted.cfg.doubleBuffer = true ∧
      (unbuffered booted).fault = false ∧ (unbuffered booted).busy = false ∧ (unbuffered booted).ready = true ∧
      (unbuffered booted).cfg.doubleBuffer = false := by decide

/-- The first page, where the scan goes on, and the last, with a byte that differs and without. -/
theorem witness_ScanStepCopiesItsPage :
    ((scanning 0 [] []).seq.phase = .scan ∧ (scanning 0 [] []).seq.scanPage < 7 ∧ (scanning 0 [] []).seq.found = false) ∧
      ((scanning 7 [] []).seq.phase = .scan ∧ (scanning 7 [] []).seq.scanPage = 7 ∧ 7 < 8) ∧
      differsAt [(1023, 0x80)] [] 7 127 ∧ ¬ differsAt [(1023, 0x80)] [] 7 126 := by
  unfold differsAt
  decide

set_option maxRecDepth 4000 in
/-- Both ends of a scan, and a running box that had found something before its page. -/
theorem witness_ScanStepCopiesItsPage_ends :
    after (exec .sync (scanning 7 [] [])) (fun t => t.seq.found) = some false ∧
      after (exec .sync (scanning 7 [(1023, 0x80)] [])) (fun t => t.seq.found) = some true ∧
      after (exec .sync { scanning 1 [(131, 0x04)] [] with seq := ⟨.scan, 1, true, 5, 9, 0, 0, 0⟩ }) State.seq =
        some ⟨.scan, 2, true, 3, 9, 0, 1, 0⟩ := by decide

/-- A canvas that differs from its shadow in its last byte, and one that does not. -/
theorem witness_ScanFindsTheSmallestBox :
    (let s := scanning 0 [(1023, 0x80)] []
     s.turns = [] ∧ s.busy = true ∧ s.fault = false ∧ s.current = .sync ∧ s.seq.phase = .scan ∧ s.seq.scanPage = 0 ∧
      s.seq.found = false ∧ Memory.read s.canvas 1023 ≠ Memory.read s.shadow 1023) ∧
    (scanning 0 [] []).turns = [] ∧ (scanning 0 [] []).seq.found = false ∧
    ∀ a : Nat, a < 1024 → Memory.read (scanning 0 [] []).canvas a = Memory.read (scanning 0 [] []).shadow a :=
  ⟨by decide, by decide, by decide, fun _ _ => rfl⟩

theorem witness_SyncOfUnchangedCanvasIsSilent :
    booted.turns = [] ∧ booted.cfg.doubleBuffer = true ∧ booted.ready = true ∧ booted.fault = false ∧ booted.busy = false ∧
      ∀ a : Nat, a < 1024 → Memory.read booted.shadow a = Memory.read booted.canvas a :=
  ⟨rfl, rfl, rfl, rfl, rfl, fun _ _ => rfl⟩

/-- The first transmit step, and a later one. -/
theorem witness_TransmitStepSendsPackets :
    (transmitting 0 127 0 7 []).seq.phase = .setup ∧
      ({ transmitting 0 127 0 7 [] with seq := ⟨.tx, 8, true, 0, 127, 0, 7, 7⟩ } : State).seq.phase ≠ .scan := by decide

theorem witness_UnbufferedSyncSendsTheFullCanvas :
    (unbuffered booted).turns = [] ∧ (unbuffered booted).cfg.doubleBuffer = false ∧ (unbuffered booted).ready = true ∧
      (unbuffered booted).fault = false ∧ (unbuffered booted).busy = false := by decide

/-- The smallest and the largest box. -/
theorem witness_TransmissionCost :
    (let s := transmitting 0 0 0 0 []
     s.turns = [] ∧ s.busy = true ∧ s.fault = false ∧ s.current = .sync ∧ s.seq.phase = .setup ∧
      s.seq.minCol ≤ s.seq.maxCol ∧ s.seq.minPage ≤ s.seq.maxPage) ∧
      (let s := transmitting 0 127 0 7 []
       s.turns = [] ∧ s.seq.phase = .setup ∧ s.seq.minCol ≤ s.seq.maxCol ∧ s.seq.minPage ≤ s.seq.maxPage) := by decide

theorem witness_StepRunsTheAgentInTurn :
    ((running .nop []).turns = [] ∧ (running .nop []).busy = true ∧ (running .nop []).fault = false) ∧
      ({ running .nop [] with turns := [.unit] } : State).turns = .unit :: [] ∧
      (booted.turns = [] ∧ booted.busy = false) ∧ (hosted (.read 0x1) booted).turns = .host (.read 0x1) :: [] := by decide

theorem witness_IssuedWordRunsItsCommand :
    let s : State := { State.reset with turns := [.host (.write 0x0 0x0001), .unit] }
    s.turns = .host (.write 0x0 0x0001) :: .unit :: [] ∧ decode? 0x0001 = some .init ∧ s.fault = false ∧ s.busy = false ∧
      (s.ready = true ∨ Instr.init = .nop ∨ Instr.init = .init) := by decide

/-- Steps that change the canvas and end a command; ARG7; SYNC_STATE and FAULT; L, the command in progress and BUSY; SEQ; the
draws; and the replies. -/
theorem witness_OnlyNamedStepsWriteEachState :
    after (step (running .setpixel [3, 10])) (fun t => (t.canvas, t.busy)) = some ([(131, 0x04)], false) ∧
      after (step (hosted (.write 0xF 5) booted)) State.arg ≠ some booted.arg ∧
      after (step (hosted (.write 0x0 0) (scanning 0 [] []))) (fun t => (t.syncState, t.fault)) = some (.idle, true) ∧
      after (step (hosted (.write 0x0 0x0002) (regWrite booted 0x8 7)))
        (fun t => (t.current, t.busy, t.latched.arg.get 0)) = some (.clear, true, 7) ∧
      after (step (transmitting 0 0 0 0 [])) State.seq = some ⟨.tx, 8, true, 0, 0, 0, 0, 1⟩ ∧
      after (step { running .init [] with initOutcomes := [true, false] })
        (fun t => (t.initOutcomes, t.initDraws)) = some ([false], 1) ∧
      after (step (hosted (.read 0x1) booted)) State.replies = some [.register 0x1 0x0041] := by
  decide

theorem witness_OnlyNamedStepsWriteEachState_no_reset : ¬ hostMoves (running .setpixel [3, 10]) .reset := by
  unfold hostMoves; decide

theorem witness_ContentsBeforeInitAreUnobservable :
    (let s : State := { State.reset with busy := true, current := .init, initOutcomes := [true] }
     s.ready = false ∧ (s.busy = true → s.current = .nop ∨ s.current = .init)) ∧
      State.reset.ready = false ∧ State.reset.busy = false := by decide

theorem witness_InvariantHoldsAtReset : Config.wf Config.default = true := by decide

/-- A SYNC in its scan, on a canvas that differs from its shadow, is a state of a run. -/
theorem scanning_inv : State.Inv (scanning 0 [(1023, 0x80)] []) := by
  refine ⟨⟨by decide, by decide, by decide⟩, by decide, ?_, fun _ _ => ?_, rfl⟩
  · unfold statusInv; decide
  · refine ⟨rfl, rfl, by decide, fun h => ?_, ?_⟩
    · exact absurd h (by decide)
    · intro a h
      exact absurd h (by simp [scanning])

theorem witness_RegisterReadValues :
    State.Inv (scanning 0 [(1023, 0x80)] []) ∧ (scanning 0 [(1023, 0x80)] []).busy = true ∧
      (scanning 0 [(1023, 0x80)] []).current = .sync ∧ (scanning 0 [(1023, 0x80)] []).seq.phase = .scan :=
  ⟨scanning_inv, rfl, rfl, rfl⟩

theorem witness_EveryStepKeepsTheInvariant :
    State.Inv (scanning 0 [(1023, 0x80)] []) ∧ ∃ t : State, step (scanning 0 [(1023, 0x80)] []) = .next t :=
  ⟨scanning_inv, _, rfl⟩

theorem witness_EveryStepKeepsMemoryCanonical :
    memInv (scanning 7 [(1023, 0x80)] []) ∧ (scanning 7 [(1023, 0x80)] []).seq.scanPage < 8 ∧
      memInv (transmitting 0 0 0 0 []) ∧ (transmitting 0 0 0 0 []).seq.phase ≠ .scan ∧
      ∃ t : State, step (scanning 7 [(1023, 0x80)] []) = .next t :=
  ⟨by unfold memInv; decide, by decide, by unfold memInv; decide, by decide, _, rfl⟩

theorem witness_EveryStepEndsItsTransactions :
    busClosed (transmitting 0 0 0 0 []).bus ∧ ∃ t : State, step (transmitting 0 0 0 0 []) = .next t := ⟨rfl, _, rfl⟩

theorem witness_EveryCommandEndsWithinSixteenSteps :
    State.Inv (scanning 0 [(1023, 0x80)] []) ∧ (scanning 0 [(1023, 0x80)] []).turns = [] ∧
      (scanning 0 [(1023, 0x80)] []).busy = true := ⟨scanning_inv, rfl, rfl⟩

theorem witness_WaitIdlePollsStatus : (hosted .waitIdle (running .nop [])).turns = .host .waitIdle :: [] := by decide

theorem witness_WaitIdleEnds :
    State.Inv (hosted .waitIdle (scanning 0 [(1023, 0x80)] [])) ∧
      (hosted .waitIdle (scanning 0 [(1023, 0x80)] [])).turns = .host .waitIdle :: [] := ⟨scanning_inv, rfl⟩

/-- A list of draws and none, with DOUBLE_BUFFER and without. -/
theorem witness_EachInitDrawsAfresh :
    ({ booted with initOutcomes := [true, false] } : State).initOutcomes = true :: [false] ∧ booted.initOutcomes = [] ∧
      booted.cfg.doubleBuffer = true ∧ (unbuffered booted).cfg.doubleBuffer = false := by decide

end Sys2Proof.Tests
end

section
/-!
SUPPORT. What one step can do, said once as inductive relations: one constructor for each way a unit step or a host move
goes, with its condition and the state it leads to. The proofs about steps split on these constructors.
-/

namespace Sys2Proof.Machine

/-! ### Fields after acceptance and after a fault -/

@[simp] theorem accept_ready (i : Instr) (s : State) : (accept i s).ready = s.ready := by rw [accept_frame]
@[simp] theorem accept_busy (i : Instr) (s : State) : (accept i s).busy = true := by rw [accept_frame]
@[simp] theorem accept_fault (i : Instr) (s : State) : (accept i s).fault = s.fault := by rw [accept_frame]
@[simp] theorem accept_latched (i : Instr) (s : State) : (accept i s).latched = ⟨s.arg, s.color⟩ := by rw [accept_frame]
@[simp] theorem accept_current (i : Instr) (s : State) : (accept i s).current = i := by rw [accept_frame]
@[simp] theorem accept_turns (i : Instr) (s : State) : (accept i s).turns = s.turns := by rw [accept_frame]

@[simp] theorem raiseFault_ready (c : Cause) (s : State) : (raiseFault c s).ready = s.ready := by rw [raiseFault_frame]

/-- The fault latch, its four cases in one equation. -/
theorem raiseFault_eq (c : Cause) (s : State) :
    raiseFault c s = { s with
      fault := true, cause := if s.fault then s.cause else c, busy := false
      syncState := if s.busy then .idle else s.syncState } := by
  -- by the values of BUSY and FAULT, the seventh and the eighth field
  obtain ⟨_, _, _, _, _, _, _ | _, _ | _⟩ := s <;> rfl

/-- The commands that may be issued while READY = 0. -/
theorem runsUnready_iff (i : Instr) : runsUnready i = true ↔ i = .nop ∨ i = .init := by cases i <;> decide

/-! ### Unit steps -/

/-- What the unit step of a command can do. -/
inductive UnitStep (s : State) : Instr → State → Prop where
  /-- NOP, or a blit of malformed geometry -/
  | ends (i : Instr) (hi : i = .nop ∨ i = .blit ∨ i = .blitrow) : UnitStep s i (endCommand s)
  /-- INIT with the outcome it draws -/
  | inits : UnitStep s .init
      (endCommand (clearBBox (advanceDraw (if initOutcome s then initStorage s else dropStorage s))))
  /-- a drawing command, which keeps the canvas in canonical form -/
  | draws (i : Instr) (c : Memory) (hn : i ≠ .nop) (hi : i ≠ .init) (hs : i ≠ .sync)
      (hc : Memory.wf 1024 s.canvas = true → Memory.wf 1024 c = true) : UnitStep s i (finishDraw s c)
  /-- a blit whose source bytes are not all there -/
  | sourceFault (i : Instr) (hi : i = .blit ∨ i = .blitrow) : UnitStep s i (raiseFault .sourceRange s)
  /-- SYNC in its scan -/
  | scans (hp : s.seq.phase = .scan) : UnitStep s .sync (scanStep s)
  /-- SYNC in its transmission -/
  | transmits (hp : s.seq.phase ≠ .scan) : UnitStep s .sync (txStep s)

theorem unitStep_of_exec {i : Instr} {s t : State} (h : exec i s = .next t) : UnitStep s i t := by
  have draw {j : Instr} {c : Memory} (hn : j ≠ .nop) (hi : j ≠ .init) (hs : j ≠ .sync) (hc : keepsCanvas s.canvas c)
      (ht : exec j s = .next (finishDraw s c)) (h : exec j s = .next t) : UnitStep s j t := by
    cases ht.symm.trans h
    exact .draws j c hn hi hs hc.1
  cases i with
  | nop => cases h; exact .ends _ (by decide)
  | init => cases h; exact .inits
  | clear => cases h; exact .draws _ [] (by decide) (by decide) (by decide) (fun _ => Memory.wf_nil _)
  | setpixel => exact draw (by decide) (by decide) (by decide) (keepsCanvas_composePixel ..) rfl h
  | hline => exact draw (by decide) (by decide) (by decide) (keepsCanvas_hLineBody ..) rfl h
  | vline => exact draw (by decide) (by decide) (by decide) (keepsCanvas_vLineBody ..) rfl h
  | rect => exact draw (by decide) (by decide) (by decide) (keepsCanvas_rectBody ..) rfl h
  | fillrect => exact draw (by decide) (by decide) (by decide) (keepsCanvas_fillRectBody ..) rfl h
  | blit =>
    rcases execBlit_cases s with he | ⟨-, he⟩ | he
    · cases he.symm.trans h; exact .ends _ (by decide)
    · cases he.symm.trans h; exact .sourceFault _ (by decide)
    · exact draw (by decide) (by decide) (by decide) (keepsCanvas_blitBody ..) he h
  | blitrow =>
    rcases execBlitrow_cases s with he | ⟨-, he⟩ | he
    · cases he.symm.trans h; exact .ends _ (by decide)
    · cases he.symm.trans h; exact .sourceFault _ (by decide)
    · exact draw (by decide) (by decide) (by decide) (keepsCanvas_blitRowBody ..) he h
  | sync =>
    cases h
    split
    · next hp => exact .scans hp
    · next hp => exact .transmits hp

/-! ### Host moves -/

/-- What a host move that answers a next state can do. -/
inductive HostStep (s : State) : HostMove → State → Prop where
  /-- a write while FAULT = 1, or to a register that takes none -/
  | ignored (off : BitVec 4) (v : Word) : HostStep s (.write off v) s
  /-- a CMD or COLOR write that raises a fault -/
  | faults (off : BitVec 4) (v : Word) (c : Cause) (hoff : off = Reg.cmd.offset ∨ off = Reg.color.offset)
      (hf : s.fault = false) (hc : c ≠ .none) : HostStep s (.write off v) (raiseFault c s)
  /-- a CMD write that command issue accepts -/
  | accepts (i : Instr) (hf : s.fault = false) (hb : s.busy = false) (hr : s.ready = true ∨ i = .nop ∨ i = .init) :
      HostStep s (.write Reg.cmd.offset (encode i)) (accept i s)
  | colors (v : Word) (c : Color) : HostStep s (.write Reg.color.offset v) { s with color := c }
  | args (n : Fin 8) (v : Word) : HostStep s (.write (Reg.arg n).offset v) (argWrite s n v)
  | reads (off : BitVec 4) : HostStep s (.read off) (hostRead s off)
  | readsCanvas (j : Fin 1024) (r : Reply) : HostStep s (.debugCanvas j) (answer s r)
  | readsShadow (j : Fin 1024) (r : Reply) : HostStep s (.debugShadow j) (answer s r)
  /-- one poll; `ts` are the turns to come after it -/
  | polls (ts : List Turn) : HostStep s .waitIdle (setTurns (hostRead s Reg.status.offset) ts)
  | stores (a : Nat) (b : Byte) (ha : a < s.cfg.srcSize) :
      HostStep s (.storeSource a b) { s with src := Memory.write s.src a b }
  | resets : HostStep s .reset (resetInput s)

theorem hostStep_regWrite (s : State) (off : BitVec 4) (v : Word) : HostStep s (.write off v) (regWrite s off v) := by
  rcases regWrite_cases s off v with h | ⟨rfl, hf, h⟩ | ⟨rfl, hf, h⟩ | ⟨n, rfl, -, h⟩ <;> rw [h]
  · exact .ignored _ _
  · rcases issueCommand_cases s v with
      ⟨-, h⟩ | ⟨-, -, h⟩ | ⟨-, -, -, h⟩ | ⟨i, -, -, -, -, -, h⟩ | ⟨i, -, hb, rfl, hr, h⟩ <;> rw [h]
    · exact .ignored _ _
    · exact .faults _ _ _ (.inl rfl) hf (by decide)
    · exact .faults _ _ _ (.inl rfl) hf (by decide)
    · exact .faults _ _ _ (.inl rfl) hf (by decide)
    · exact .accepts i hf hb (hr.imp_right (runsUnready_iff i).mp)
  · rcases colorWrite_cases s v with ⟨c, -, h⟩ | ⟨-, h⟩ <;> rw [h]
    · exact .colors v c
    · exact .faults _ _ _ (.inr rfl) hf (by decide)
  · exact .args n v

theorem hostStep_waitIdle (s : State) : HostStep s .waitIdle (waitIdle s) := by
  unfold waitIdle
  dsimp only
  split
  · exact .polls _
  · exact .polls s.turns

theorem hostStep_of_hostMove {m : HostMove} {s t : State} (h : hostMove m s = .next t) : HostStep s m t := by
  cases m with
  | write off v => cases h; exact hostStep_regWrite s off v
  | read off => cases h; exact .reads off
  | debugCanvas j =>
    simp only [hostMove, debugCanvas] at h
    split at h <;> cases h
    exact .readsCanvas j _
  | debugShadow j =>
    simp only [hostMove, debugShadow] at h
    split at h
    · cases h
    · split at h <;> cases h
      exact .readsShadow j _
  | waitIdle => cases h; exact hostStep_waitIdle s
  | storeSource a b =>
    simp only [hostMove, storeSource] at h
    split at h
    · cases h
    · next ha =>
      split at h <;> cases h
      exact .stores a b (by omega)
  | reset => cases h; exact .resets

/-! ### One step -/

/-- The unit's turn is the unit step of the command in progress, or changes nothing. -/
theorem unitStep_of_unitTurn {s t : State} (h : unitTurn s = .next t) :
    t = s ∨ (unitEnabled s = true ∧ UnitStep s s.current t) := by
  rcases unitTurn_cases s with ⟨hb, hf, he⟩ | ⟨-, he⟩
  · exact .inr ⟨by simp [unitEnabled, hb, hf], unitStep_of_exec (he.symm.trans h)⟩
  · cases he.symm.trans h
    exact .inl rfl

/-- A step takes its turn `ts` away and is nothing more, the unit step of the command in progress, or one host move. -/
theorem step_next {s t : State} (h : step s = .next t) :
    ∃ ts : List Turn, t = setTurns s ts ∨
      (∃ i, unitRuns s i ∧ UnitStep (setTurns s ts) i t) ∨ ∃ m, hostMoves s m ∧ HostStep (setTurns s ts) m t := by
  rcases step_cases s with ⟨hts, he⟩ | ⟨rest, hts, he⟩ | ⟨m, rest, hts, he⟩
  · refine ⟨s.turns, ?_⟩
    rcases unitStep_of_unitTurn (he.symm.trans h) with ht | ⟨hu, hx⟩
    · exact .inl ht
    · exact .inr (.inl ⟨_, ⟨.inl hts, hu, rfl⟩, hx⟩)
  · refine ⟨rest, ?_⟩
    rcases unitStep_of_unitTurn (he.symm.trans h) with ht | ⟨hu, hx⟩
    · exact .inl ht
    · exact .inr (.inl ⟨_, ⟨.inr (by simp [hts]), hu, rfl⟩, hx⟩)
  · exact ⟨rest, .inr (.inr ⟨m, by simp [hostMoves, hts], hostStep_of_hostMove (he.symm.trans h)⟩)⟩

end Sys2Proof.Machine
end

section
/-!
SUPPORT. The invariant of a run: it holds at reset, and each kind of unit step and host move keeps it.
-/

namespace Sys2Proof.Machine

/-! ### Reset -/

theorem inv_resetWith {g : Config} (hg : g.wf = true) : State.Inv (State.resetWith g) := by
  refine ⟨⟨Memory.wf_nil _, Memory.wf_nil _, Memory.wf_nil _⟩, fun _ => rfl, ?_, ?_, rfl⟩
  · simp [statusInv, State.resetWith, hg]
  · simp [State.resetWith]

/-- The reset input gives the reset state but for the surroundings, of which the invariant reads the source memory and
the bus trace. -/
theorem inv_resetInput {s : State} (h : State.Inv s) : State.Inv (resetInput s) := by
  obtain ⟨⟨-, -, hsrc⟩, -, ⟨-, -, -, -, -, -, -, hcfg⟩, -, hbus⟩ := h
  obtain ⟨⟨hc, hs, -⟩, hsh, hst, hsync, -⟩ := inv_resetWith hcfg
  exact ⟨⟨hc, hs, hsrc⟩, hsh, hst, hsync, hbus⟩

/-! ### Faults, acceptance and the source memory -/

theorem inv_raiseFault {s : State} (h : State.Inv s) (hf : s.fault = false) {c : Cause} (hc : c ≠ .none) :
    State.Inv (raiseFault c s) := by
  obtain ⟨hmem, hsh, ⟨-, -, hidle, -, -, hif, hbv, hcfg⟩, -, hbus⟩ := h
  have hcause : (if s.fault then s.cause else c) ≠ .none := by simpa [hf] using hc
  have hss : (if s.busy then SyncState.idle else s.syncState) = .idle := by
    cases hb : s.busy with
    | false => exact hidle hb
    | true => rfl
  rw [raiseFault_eq]
  exact ⟨hmem, hsh, ⟨by simpa using hcause, by simp, fun _ => hss, by simp, by simp, hif, hbv, hcfg⟩, by simp, hbus⟩

theorem inv_accept {s : State} (h : State.Inv s) (hf : s.fault = false) (hb : s.busy = false) {i : Instr}
    (hr : s.ready = true ∨ i = .nop ∨ i = .init) : State.Inv (accept i s) := by
  obtain ⟨hmem, hsh, ⟨hfc, -, hidle, -, -, hif, hbv, hcfg⟩, -, hbus⟩ := h
  have hready : runsUnready i = false → s.ready = true := fun hu =>
    hr.resolve_right fun hi => by simp [(runsUnready_iff i).mpr hi] at hu
  by_cases hi : i = .sync
  · subst hi
    cases hd : s.cfg.doubleBuffer with
    | true =>
      rw [accept_sync_buffered hd]
      refine ⟨hmem, hsh, ⟨hfc, by simp [hf], by simp, by simp, fun _ => hready, hif, hbv, hcfg⟩, fun _ _ => ?_, hbus⟩
      exact ⟨hd, rfl, by simp, by simp, fun a ha => by simp at ha⟩
    | false =>
      rw [accept_sync_unbuffered hd]
      refine ⟨hmem, hsh, ⟨hfc, by simp [hf], by simp, by simp, fun _ => hready, hif, fun _ => hready rfl, hcfg⟩,
        fun _ _ => ?_, hbus⟩
      exact ⟨rfl, by simp [boxInv], ⟨rfl, rfl⟩, by simp [hd]⟩
  · rw [accept_of_ne_sync hi]
    exact ⟨hmem, hsh, ⟨hfc, by simp [hf], by simp, fun _ _ => hidle hb, fun _ => hready, hif, hbv, hcfg⟩,
      fun _ hs => absurd hs hi, hbus⟩

theorem inv_storeSource {s : State} (h : State.Inv s) {a : Nat} (ha : a < s.cfg.srcSize) (b : Byte) :
    State.Inv { s with src := Memory.write s.src a b } := by
  obtain ⟨⟨hc, hs, hsrc⟩, hrest⟩ := h
  exact ⟨⟨hc, hs, Memory.wf_write hsrc ha b⟩, hrest⟩

theorem inv_hostStep {s t : State} {m : HostMove} (h : State.Inv s) (hx : HostStep s m t) : State.Inv t := by
  cases hx with
  | ignored => exact h
  | faults _ _ _ _ hf hc => exact inv_raiseFault h hf hc
  | accepts _ hf hb hr => exact inv_accept h hf hb hr
  | colors => exact h
  | args => exact h
  | reads => exact h
  | readsCanvas => exact h
  | readsShadow => exact h
  | polls => exact h
  | stores _ b ha => exact inv_storeSource h ha b
  | resets => exact inv_resetInput h

/-! ### Unit steps of the commands other than SYNC -/

/-- A command other than SYNC ends with a canvas in canonical form. -/
theorem inv_finishDraw {s : State} (h : State.Inv s) (hb : s.busy = true) (hs : s.current ≠ .sync) {c : Memory}
    (hc : Memory.wf 1024 c = true) : State.Inv (finishDraw s c) := by
  obtain ⟨⟨-, hshw, hsrc⟩, hsh, ⟨hfc, -, -, hother, -, hif, hbv, hcfg⟩, -, hbus⟩ := h
  exact ⟨⟨hc, hshw, hsrc⟩, hsh,
    ⟨hfc, by simp, fun _ => hother hb hs, by simp, by simp, hif, hbv, hcfg⟩, by simp, hbus⟩

/-- INIT drops or zeroes the stores and clears the box, under either outcome. -/
theorem inv_init {s : State} (h : State.Inv s) (hb : s.busy = true) (hs : s.current = .init) (ok : Bool) :
    State.Inv (endCommand (clearBBox (advanceDraw (if ok then initStorage s else dropStorage s)))) := by
  obtain ⟨⟨-, hshw, hsrc⟩, hsh, ⟨hfc, hfb, -, hother, -, -, -, hcfg⟩, -, hbus⟩ := h
  have hidle : s.syncState = .idle := hother hb (by simp [hs])
  have hshw' : Memory.wf 1024 (if s.cfg.doubleBuffer then [] else s.shadow) = true := by
    split
    · exact Memory.wf_nil _
    · exact hshw
  have hsh' : s.cfg.doubleBuffer = false → (if s.cfg.doubleBuffer then [] else s.shadow) = [] := fun hd => by
    simp [hsh hd]
  cases ok <;>
    exact ⟨⟨Memory.wf_nil _, hshw', hsrc⟩, hsh',
      ⟨hfc, fun _ => rfl, fun _ => hidle, by simp, by simp, by simp [initStorage, dropStorage], by simp, hcfg⟩,
      by simp, hbus⟩

/-! ### SYNC -/

/-- A page scan of page p keeps a running box of the pages before p a box, now of the pages up to p. -/
theorem boxInv_of_boxGrows {q r : Seq} {p : Nat} {canvas shadow : Memory}
    (hg : boxGrows q r p (differsAt canvas shadow p)) (hp : p < 8)
    (hq : q.found = true → boxInv q ∧ q.maxPage < p) (hr : r.found = true) : boxInv r ∧ r.maxPage < p + 1 := by
  by_cases hD : ∃ c, differsAt canvas shadow p c
  · obtain ⟨-, hin, hmin, hmax, hold, hnew⟩ := hg.2 hD
    obtain ⟨c, hc⟩ := hD
    have hcols := hin c hc
    cases hf : q.found with
    | true =>
      obtain ⟨⟨hq1, hq2, hq3, hq4⟩, hqp⟩ := hq hf
      obtain ⟨-, -, hpmin, hpmax⟩ := hold hf
      have hcol : r.maxCol < 128 := by
        rcases hmax with ⟨hlt, -⟩ | ⟨-, he⟩
        · exact hlt
        · omega
      exact ⟨⟨by omega, hcol, by omega, by omega⟩, by omega⟩
    | false =>
      obtain ⟨hpmin, hpmax⟩ := hnew hf
      have hcol : r.maxCol < 128 := by
        rcases hmax with ⟨hlt, -⟩ | ⟨ht, -⟩
        · exact hlt
        · simp [hf] at ht
      exact ⟨⟨by omega, hcol, by omega, by omega⟩, by omega⟩
  · obtain ⟨hfound, h1, h2, h3, h4⟩ := hg.1 fun c hc => hD ⟨c, hc⟩
    obtain ⟨⟨hq1, hq2, hq3, hq4⟩, hqp⟩ := hq (hfound ▸ hr)
    exact ⟨⟨by omega, by omega, by omega, by omega⟩, by omega⟩

/-- The state after the copy of the scan page, before the scan ends or goes on. -/
def scanned (s : State) : State :=
  { s with
    shadow := (scanPage s.canvas s.shadow s.seq s.seq.scanPage).1
    seq := { (scanPage s.canvas s.shadow s.seq s.seq.scanPage).2 with scanPage := s.seq.scanPage + 1 } }

theorem scanStep_eq (s : State) :
    scanStep s = if s.seq.scanPage + 1 = 8 then scanEnd (scanned s) else scanned s := rfl

/-- After the copy of page p, S agrees with C on the pages up to p. -/
theorem agreeBelow_scanned {s : State} (h : agreeBelow s (s.seq.scanPage * 128)) :
    agreeBelow (scanned s) ((s.seq.scanPage + 1) * 128) := by
  intro a ha
  show Memory.read (scanPage s.canvas s.shadow s.seq s.seq.scanPage).1 a = Memory.read s.canvas a
  rw [read_scanPage]
  split
  · rfl
  · exact h a (by omega)

theorem inv_scanStep {s : State} (h : State.Inv s) (hb : s.busy = true) (hs : s.current = .sync)
    (hp : s.seq.phase = .scan) : State.Inv (scanStep s) := by
  obtain ⟨⟨hc, hshw, hsrc⟩, hsh, ⟨hfc, hfb, hidle, hother, hready, hif, hbv, hcfg⟩, hsync, hbus⟩ := h
  have hq := hsync hb hs
  simp only [syncInv, hp] at hq
  obtain ⟨hd, hss, hlt, hbox, hagree⟩ := hq
  obtain ⟨hgrow, hphase, -, -⟩ := boxGrows_scanPage s.canvas s.shadow s.seq s.seq.scanPage
  have hmem : memInv (scanned s) := ⟨hc, wf_scanPage hshw _ _ hlt, hsrc⟩
  have hnodb : (scanned s).cfg.doubleBuffer = false → (scanned s).shadow = [] := fun hn =>
    absurd (hd.symm.trans hn) (by decide)
  have hbox' := boxInv_of_boxGrows hgrow hlt hbox
  have hagree' := agreeBelow_scanned hagree
  have hr : s.ready = true := hready hb (by simp [hs, runsUnready])
  rw [scanStep_eq]
  split
  · next hlast =>
    rcases scanEnd_cases (scanned s) with ⟨-, hend⟩ | ⟨hfound, hend⟩ <;> rw [hend]
    · exact ⟨hmem, hnodb, ⟨hfc, by simp, by simp, by simp, by simp, hif, by simp, hcfg⟩, by simp, hbus⟩
    · refine ⟨hmem, hnodb, ⟨hfc, hfb, fun hn => absurd (hb.symm.trans hn) (by decide), fun _ hn => absurd hs hn, hready,
        hif, fun _ => hr, hcfg⟩, fun _ _ => ?_, hbus⟩
      exact ⟨rfl, (hbox' hfound).1, ⟨rfl, rfl⟩, fun _ a ha => hagree' a (by omega)⟩
  · next hnot =>
    refine ⟨hmem, hnodb, ⟨hfc, hfb, hidle, hother, hready, hif, hbv, hcfg⟩, fun _ _ => ?_, hbus⟩
    have hph : (scanned s).seq.phase = .scan := hphase.trans hp
    have hlt' : s.seq.scanPage + 1 < 8 := by omega
    simp only [syncInv, hph]
    exact ⟨hd, hss, hlt', hbox', hagree'⟩

/-- The setup of the transmission names the first page of the box and starts the transmit phase. -/
theorem inv_setup {s : State} (h : State.Inv s) (hb : s.busy = true) (hs : s.current = .sync)
    (hp : s.seq.phase = .setup) : State.Inv (setup s) := by
  obtain ⟨hmem, hsh, hst, hsync, hbus⟩ := h
  have hq := hsync hb hs
  simp only [syncInv, hp] at hq
  obtain ⟨hss, hbox, hrep, hagree⟩ := hq
  rw [setup_eq]
  have hpages : s.seq.minPage ≤ s.seq.maxPage := by
    obtain ⟨-, -, hle, -⟩ := hbox
    exact hle
  exact ⟨hmem, hsh, hst, fun _ _ => ⟨hss, hbox, hrep, hagree, Nat.le_refl _, hpages⟩,
    busClosed_append hbus (busClosed_setupEvents _ _)⟩

theorem inv_txRow {s : State} (h : State.Inv s) (hb : s.busy = true) (hs : s.current = .sync)
    (hp : s.seq.phase = .tx) : State.Inv (txRow s) := by
  obtain ⟨hmem, hsh, ⟨hfc, hfb, hidle, hother, hready, hif, hbv, hcfg⟩, hsync, hbus⟩ := h
  have hq := hsync hb hs
  simp only [syncInv, hp] at hq
  obtain ⟨hss, hbox, hrep, hagree, hlo, -⟩ := hq
  have hbus' := busClosed_append hbus
    (busClosed_txPayload s.cfg (boxRow s.canvas s.seq.txPage s.seq.minCol s.seq.maxCol))
  rcases txRow_cases s with ⟨hle, he⟩ | ⟨-, he⟩ <;> rw [he]
  · refine ⟨hmem, hsh, ⟨hfc, hfb, hidle, hother, hready, hif, hbv, hcfg⟩, fun _ _ => ?_, hbus'⟩
    simp only [syncInv, hp]
    exact ⟨hss, hbox, hrep, hagree, by omega, hle⟩
  · exact ⟨hmem, hsh, ⟨hfc, by simp, by simp, by simp, by simp, hif, hbv, hcfg⟩, by simp, hbus'⟩

theorem inv_txStep {s : State} (h : State.Inv s) (hb : s.busy = true) (hs : s.current = .sync)
    (hp : s.seq.phase ≠ .scan) : State.Inv (txStep s) := by
  unfold txStep
  split
  · next hset => exact inv_txRow (inv_setup h hb hs hset) hb hs rfl
  · next hset =>
    refine inv_txRow h hb hs ?_
    cases hph : s.seq.phase with
    | scan => exact absurd hph hp
    | setup => exact absurd hph hset
    | tx => rfl

/-! ### Steps -/

theorem inv_unitStep {s t : State} (h : State.Inv s) (hu : unitEnabled s = true) (hx : UnitStep s s.current t) :
    State.Inv t := by
  simp only [unitEnabled, Bool.and_eq_true, Bool.not_eq_true'] at hu
  obtain ⟨hb, hf⟩ := hu
  generalize hi : s.current = i at hx
  have hc : Memory.wf 1024 s.canvas = true := by
    obtain ⟨⟨hc, -, -⟩, -⟩ := h
    exact hc
  cases hx with
  | ends _ hj => exact inv_finishDraw h hb (by rw [hi]; rintro rfl; revert hj; decide) hc
  | inits => exact inv_init h hb hi _
  | draws _ c _ _ hns hwf => exact inv_finishDraw h hb (hi ▸ hns) (hwf hc)
  | sourceFault => exact inv_raiseFault h hf (by decide)
  | scans hp => exact inv_scanStep h hb hi hp
  | transmits hp => exact inv_txStep h hb hi hp

/-- Settles O54: the turn that a step takes away is no part of the invariant, and each unit step and host move keeps
it. -/
theorem everyStepKeepsTheInvariant : Obligations.EveryStepKeepsTheInvariant := by
  intro s t h hstep
  obtain ⟨ts, rfl | ⟨i, ⟨-, hu, rfl⟩, hx⟩ | ⟨m, -, hx⟩⟩ := step_next hstep
  · exact h
  · exact inv_unitStep (s := setTurns s ts) h hu hx
  · exact inv_hostStep (s := setTurns s ts) h hx

/-- Settles O53. -/
theorem invariantHoldsAtReset : Obligations.InvariantHoldsAtReset :=
  ⟨inv_resetWith (by decide), fun _ hg => inv_resetWith hg⟩

end Sys2Proof.Machine
end

section
/-!
SUPPORT. Who writes what: the one step lemma that names the writer of each piece of state.
-/

namespace Sys2Proof.Machine

/-- The scan step writes S, SEQ, BUSY, SYNC_STATE and the box registers only. -/
theorem scanStep_frame (s : State) :
    scanStep s = { s with
      shadow := (scanStep s).shadow, seq := (scanStep s).seq, busy := (scanStep s).busy
      syncState := (scanStep s).syncState, bboxValid := (scanStep s).bboxValid, bbox := (scanStep s).bbox } := by
  rw [scanStep_eq]
  split
  · rcases scanEnd_cases (scanned s) with ⟨-, h⟩ | ⟨-, h⟩ <;> rw [h] <;> rfl
  · rfl

/-- The transmit step writes SEQ, BUSY, SYNC_STATE and the bus trace only. -/
theorem txStep_frame (s : State) :
    txStep s = { s with
      seq := (txStep s).seq, busy := (txStep s).busy, syncState := (txStep s).syncState, bus := (txStep s).bus } := by
  have row (u : State) : txRow u = { u with
      seq := (txRow u).seq, busy := (txRow u).busy, syncState := (txRow u).syncState, bus := (txRow u).bus } := by
    rcases txRow_cases u with ⟨-, h⟩ | ⟨-, h⟩ <;> rw [h]
  unfold txStep
  split
  · exact row (setup s)
  · exact row s

/-- INIT writes C, S, READY, INIT_FAIL, BUSY, the box registers and the draws only. -/
theorem init_frame (s : State) (ok : Bool) :
    let t := endCommand (clearBBox (advanceDraw (if ok then initStorage s else dropStorage s)))
    t = { s with
      canvas := t.canvas, shadow := t.shadow, ready := t.ready, initFail := t.initFail, busy := t.busy
      bboxValid := t.bboxValid, bbox := t.bbox, initOutcomes := t.initOutcomes, initDraws := t.initDraws } := by
  cases ok <;> rfl

/-- A command whose unit step comes next is in progress, with FAULT = 0. -/
theorem busy_of_unitRuns {s : State} {i : Instr} (hu : unitRuns s i) : s.busy = true ∧ s.fault = false := by
  obtain ⟨-, hen, -⟩ := hu
  simpa [unitEnabled] using hen

/-- Settles O51: each way a step can go writes the fields its frame names, and the statement names it for those. -/
theorem onlyNamedStepsWriteEachState : Obligations.OnlyNamedStepsWriteEachState := by
  intro s t hstep hreset
  obtain ⟨ts, rfl | ⟨i, hu, hx⟩ | ⟨m, hm, hx⟩⟩ := step_next hstep
  · simp +contextual
  · obtain ⟨hb, hf⟩ := busy_of_unitRuns hu
    have hrun : ∃ i, unitRuns s i := ⟨i, hu⟩
    cases hx with
    | ends => simp [hb, hrun]
    | inits =>
      have hdraw : ∃ i, i ≠ .nop ∧ i ≠ .sync ∧ unitRuns s i := ⟨.init, by decide, by decide, hu⟩
      rw [init_frame]
      simp [hb, hu, hrun, hdraw]
    | draws _ c hn _ hs =>
      have hdraw : ∃ i, i ≠ .nop ∧ i ≠ .sync ∧ unitRuns s i := ⟨i, hn, hs, hu⟩
      simp [hb, hrun, hdraw]
    | sourceFault _ hi =>
      have hblit : unitRuns s .blit ∨ unitRuns s .blitrow := by
        rcases hi with rfl | rfl
        · exact .inl hu
        · exact .inr hu
      rw [raiseFault_eq]
      simp [hf, hblit]
    | scans =>
      rw [scanStep_frame]
      simp [hb, hu, hrun]
    | transmits =>
      rw [txStep_frame]
      simp [hb, hu, hrun]
  · cases hx with
    | ignored => simp +contextual
    | faults off v c hoff hf =>
      have hw : ∃ v, hostMoves s (.write 0#4 v) ∨ hostMoves s (.write 2#4 v) := by
        rcases hoff with rfl | rfl
        · exact ⟨v, .inl hm⟩
        · exact ⟨v, .inr hm⟩
      have hf : s.fault = false := hf
      rw [raiseFault_eq]
      simp [hf, hw]
    | accepts i hf hb hr =>
      have hacc : commandAccepted s i := ⟨hm, hf, hb, hr⟩
      have hsome : ∃ i, commandAccepted s i := ⟨i, hacc⟩
      by_cases hi : i = .sync
      · subst hi
        have hsync : syncAccepted s := ⟨hm, hf, hb, by simpa using hr⟩
        rw [accept_frame]
        simp [hacc, hsome, hsync]
      · rw [accept_of_ne_sync hi]
        simp [hacc, hsome]
    | colors v c =>
      have hw : ∃ v, hostMoves s (.write 2#4 v) := ⟨v, hm⟩
      simp +contextual [hw]
    | args n v =>
      have hw : ∃ (n : Fin 8) (v : Word), hostMoves s (.write (BitVec.ofNat 4 (8 + n.val)) v) := ⟨n, v, hm⟩
      simp +contextual [hw]
    | reads off =>
      have hr : ∃ off, hostMoves s (.read off) := ⟨off, hm⟩
      simp +contextual [hostRead, hr]
    | readsCanvas j =>
      have hr : ∃ i, hostMoves s (.debugCanvas i) ∨ hostMoves s (.debugShadow i) := ⟨j, .inl hm⟩
      simp +contextual [hr]
    | readsShadow j =>
      have hr : ∃ i, hostMoves s (.debugCanvas i) ∨ hostMoves s (.debugShadow i) := ⟨j, .inr hm⟩
      simp +contextual [hr]
    | polls => simp +contextual [hostRead, hm]
    | stores a b =>
      have hw : ∃ a b, hostMoves s (.storeSource a b) := ⟨a, b, hm⟩
      simp +contextual [hw]
    | resets => exact absurd hm hreset

end Sys2Proof.Machine
end

section
/-!
SUPPORT. What steps do not look at: the live operand registers while a command runs (10_state.md R42), and the contents
of C and S before a successful INIT (R40, R41). Each operation commutes with putting other values there; where it
branches, its condition does not look at them.
-/

namespace Sys2Proof.Machine

/-- The outcome with `f` applied to its next state, if it has one. -/
def onNext (f : State → State) : Host.Outcome State Fault Refusal → Host.Outcome State Fault Refusal
  | .next s => .next (f s)
  | .fault r => .fault r
  | .refused r => .refused r

/-! ### The live operand registers -/

/-- The state with other values in the live ARG and COLOR registers. -/
def setLive (a : Vector Word 8) (col : Color) (s : State) : State := { s with arg := a, color := col }

section
variable (a : Vector Word 8) (col : Color) (s : State)

theorem raiseFault_setLive (c : Cause) : raiseFault c (setLive a col s) = setLive a col (raiseFault c s) := by
  rw [raiseFault_eq, raiseFault_eq]
  rfl

theorem execInit_setLive : execInit (setLive a col s) = onNext (setLive a col) (execInit s) := by
  have ho : initOutcome (setLive a col s) = initOutcome s := rfl
  unfold execInit
  rw [ho]
  cases initOutcome s <;> rfl

theorem execBlit_setLive : execBlit (setLive a col s) = onNext (setLive a col) (execBlit s) := by
  unfold execBlit
  rw [raiseFault_setLive]
  dsimp only
  rw [apply_ite (onNext _), apply_ite (onNext _)]
  rfl

theorem execBlitrow_setLive : execBlitrow (setLive a col s) = onNext (setLive a col) (execBlitrow s) := by
  unfold execBlitrow
  rw [raiseFault_setLive]
  dsimp only
  rw [apply_ite (onNext _), apply_ite (onNext _)]
  rfl

theorem scanEnd_setLive : scanEnd (setLive a col s) = setLive a col (scanEnd s) := by
  unfold scanEnd
  rw [apply_ite (setLive a col)]
  rfl

theorem scanStep_setLive : scanStep (setLive a col s) = setLive a col (scanStep s) := by
  unfold scanStep
  dsimp only
  rw [apply_ite (setLive a col), ← scanEnd_setLive]
  rfl

theorem txRow_setLive : txRow (setLive a col s) = setLive a col (txRow s) := by
  unfold txRow
  dsimp only
  rw [apply_ite (setLive a col)]
  rfl

theorem txStep_setLive : txStep (setLive a col s) = setLive a col (txStep s) := by
  unfold txStep
  rw [← txRow_setLive, apply_ite (setLive a col)]
  rfl

theorem execSync_setLive : execSync (setLive a col s) = onNext (setLive a col) (execSync s) := by
  unfold execSync
  rw [scanStep_setLive, txStep_setLive, onNext, apply_ite (setLive a col)]
  rfl

/-- The unit step of a command does not look at the live registers and leaves what stands there. -/
theorem exec_setLive (i : Instr) : exec i (setLive a col s) = onNext (setLive a col) (exec i s) := by
  cases i with
  | init => exact execInit_setLive a col s
  | blit => exact execBlit_setLive a col s
  | blitrow => exact execBlitrow_setLive a col s
  | sync => exact execSync_setLive a col s
  | _ => rfl

end

/-- A unit step writes none of ARG, COLOR and L. -/
theorem operands_of_unitStep {i : Instr} {s t : State} (h : UnitStep s i t) :
    t.arg = s.arg ∧ t.color = s.color ∧ t.latched = s.latched := by
  cases h with
  | ends => exact ⟨rfl, rfl, rfl⟩
  | inits => rw [init_frame]; exact ⟨rfl, rfl, rfl⟩
  | draws => exact ⟨rfl, rfl, rfl⟩
  | sourceFault => rw [raiseFault_frame]; exact ⟨rfl, rfl, rfl⟩
  | scans => rw [scanStep_frame]; exact ⟨rfl, rfl, rfl⟩
  | transmits => rw [txStep_frame]; exact ⟨rfl, rfl, rfl⟩

/-- Settles O38. -/
theorem commandsReadOnlyLatchedOperands : Obligations.CommandsReadOnlyLatchedOperands := by
  refine ⟨accept_latched, fun i s t a col h => ⟨?_, operands_of_unitStep (unitStep_of_exec h)⟩, fun s l off => ?_⟩
  · exact (exec_setLive a col s i).trans (congrArg _ h)
  · rfl

/-! ### The contents of C and S -/

/-- The state with other contents of C and S. -/
def setStores (c d : Memory) (s : State) : State := { s with canvas := c, shadow := d }

section
variable (c d : Memory) (s : State)

theorem raiseFault_setStores (e : Cause) : raiseFault e (setStores c d s) = setStores c d (raiseFault e s) := by
  rw [raiseFault_eq, raiseFault_eq]
  rfl

theorem accept_setStores (i : Instr) : accept i (setStores c d s) = setStores c d (accept i s) := by
  by_cases hi : i = .sync
  · subst hi
    unfold accept syncAccept
    rw [apply_ite (setStores c d)]
    rfl
  · rw [accept_of_ne_sync hi, accept_of_ne_sync hi]
    rfl

theorem issueCommand_setStores (w : Word) :
    issueCommand (setStores c d s) w = setStores c d (issueCommand s w) := by
  unfold issueCommand
  rw [apply_ite (setStores c d), apply_ite (setStores c d)]
  cases decode? w with
  | none => simp only [raiseFault_setStores]; rfl
  | some i =>
    dsimp only
    rw [apply_ite (setStores c d), raiseFault_setStores, raiseFault_setStores, accept_setStores]
    rfl

theorem colorWrite_setStores (v : Word) : colorWrite (setStores c d s) v = setStores c d (colorWrite s v) := by
  unfold colorWrite
  cases colorOfCode (v.extractLsb' 0 2) with
  | none => exact raiseFault_setStores c d s _
  | some _ => rfl

theorem regWrite_setStores (off : BitVec 4) (v : Word) :
    regWrite (setStores c d s) off v = setStores c d (regWrite s off v) := by
  unfold regWrite
  rw [apply_ite (setStores c d)]
  cases Reg.ofOffset off with
  | cmd => dsimp only; rw [issueCommand_setStores]; rfl
  | color => dsimp only; rw [colorWrite_setStores]; rfl
  | _ => rfl

/-- While READY = 0 no host move but the reset input looks at the stores, and it leaves what stands there. -/
theorem hostMove_setStores {m : HostMove} (hm : m ≠ .reset) (hr : s.ready = false) :
    hostMove m (setStores c d s) = onNext (setStores c d) (hostMove m s) := by
  have hr' : (setStores c d s).ready = false := hr
  cases m with
  | write off v => exact congrArg _ (regWrite_setStores c d s off v)
  | read off => rfl
  | debugCanvas j => simp [hostMove, debugCanvas, hr, hr', onNext]
  | debugShadow j =>
    have hd : (setStores c d s).cfg = s.cfg := rfl
    simp only [hostMove, debugShadow, hr, hr', hd]
    split <;> rfl
  | waitIdle =>
    unfold hostMove waitIdle
    dsimp only
    rw [onNext, apply_ite (setStores c d)]
    rfl
  | storeSource a b =>
    unfold hostMove storeSource
    dsimp only
    rw [apply_ite (onNext _), apply_ite (onNext _)]
    rfl
  | reset => exact absurd rfl hm

end

/-- No host move but the reset input writes READY. -/
theorem ready_of_hostStep {m : HostMove} {s t : State} (h : HostStep s m t) (hm : m ≠ .reset) : t.ready = s.ready := by
  cases h with
  | faults => exact raiseFault_ready _ _
  | accepts => exact accept_ready _ _
  | resets => exact absurd rfl hm
  | _ => rfl

/-- Two outcomes of one step from stores that differ: of the same kind, with the same reason of a stop; next states
differ in the stores only, and agree in what is observable of them once READY is 1. `db` says whether there is an S. -/
inductive StoresAlike (db : Bool) : Host.Outcome State Fault Refusal → Host.Outcome State Fault Refusal → Prop where
  | next (t u : State) (hrest : u = { t with canvas := u.canvas, shadow := u.shadow })
      (hready : t.ready = true → u.canvas = t.canvas ∧ (db = true → u.shadow = t.shadow)) :
      StoresAlike db (.next t) (.next u)
  | fault (r : Fault) : StoresAlike db (.fault r) (.fault r)
  | refused (r : Refusal) : StoresAlike db (.refused r) (.refused r)

/-- A step that leaves other stores as they are, and READY at 0, is alike from both. -/
theorem storesAlike_onNext {o : Host.Outcome State Fault Refusal} (h : ∀ t, o = .next t → t.ready = false) (db : Bool)
    (c d : Memory) : StoresAlike db o (onNext (setStores c d) o) := by
  cases o with
  | next t => exact .next _ _ rfl fun hr => by simp [h t rfl] at hr
  | fault r => exact .fault r
  | refused r => exact .refused r

theorem storesAlike_hostMove {s : State} (hr : s.ready = false) (m : HostMove) (c d : Memory) :
    StoresAlike s.cfg.doubleBuffer (hostMove m s) (hostMove m (setStores c d s)) := by
  by_cases hm : m = .reset
  · subst hm
    exact .next _ _ rfl fun _ => ⟨rfl, fun _ => rfl⟩
  · rw [hostMove_setStores c d s hm hr]
    exact storesAlike_onNext (fun t ht => (ready_of_hostStep (hostStep_of_hostMove ht) hm).trans hr) _ c d

/-- INIT zeroes the stores it leaves observable. -/
theorem storesAlike_init (s : State) (c d : Memory) :
    StoresAlike s.cfg.doubleBuffer (execInit s) (execInit (setStores c d s)) := by
  have ho : initOutcome (setStores c d s) = initOutcome s := rfl
  unfold execInit
  rw [ho]
  cases initOutcome s with
  | false => exact .next _ _ rfl fun hr => by simp [dropStorage] at hr
  | true => exact .next _ _ rfl fun _ => ⟨rfl, fun hd => by simp [initStorage, setStores, hd]⟩

theorem storesAlike_unitTurn {s : State} (hr : s.ready = false)
    (hc : s.busy = true → s.current = .nop ∨ s.current = .init) (c d : Memory) :
    StoresAlike s.cfg.doubleBuffer (unitTurn s) (unitTurn (setStores c d s)) := by
  rcases unitTurn_cases s with ⟨hb, hf, h⟩ | ⟨hn, h⟩
  · have h' : unitTurn (setStores c d s) = exec s.current (setStores c d s) :=
      if_pos (by simp [unitEnabled, setStores, hb, hf])
    rw [h, h']
    rcases hc hb with hi | hi <;> rw [hi]
    · exact .next _ _ rfl fun ht => by simp [hr] at ht
    · exact storesAlike_init s c d
  · have h' : unitTurn (setStores c d s) = .next (setStores c d s) := if_neg (by
      rcases hn with hb | hf
      · simp [unitEnabled, setStores, hb]
      · simp [unitEnabled, setStores, hf])
    rw [h, h']
    exact storesAlike_onNext (o := .next s) (fun t ht => by cases ht; exact hr) _ c d

/-- Settles O52. -/
theorem contentsBeforeInitAreUnobservable : Obligations.ContentsBeforeInitAreUnobservable := by
  intro s c d hr hc
  have h : StoresAlike s.cfg.doubleBuffer (step s) (step (setStores c d s)) := by
    have hts : (setStores c d s).turns = s.turns := rfl
    unfold step
    rw [hts]
    cases s.turns with
    | nil => exact storesAlike_unitTurn hr hc c d
    | cons x rest =>
      cases x with
      | unit => exact storesAlike_unitTurn (s := setTurns s rest) hr hc c d
      | host m => exact storesAlike_hostMove (s := setTurns s rest) hr m c d
  change StoresAlike s.cfg.doubleBuffer (step s) (step { s with canvas := c, shadow := d }) at h
  generalize step s = o, step { s with canvas := c, shadow := d } = o' at h ⊢
  cases h with
  | next t u hrest hready => exact ⟨hrest, hready⟩
  | fault r => rfl
  | refused r => rfl

end Sys2Proof.Machine
end

section
/-! SUPPORT. The register map, the values after reset, the host's source memory, and a command word's way to run. -/

namespace Sys2Proof.Machine

/-- Settles O3. -/
theorem registerMapRoundTrip : Obligations.RegisterMapRoundTrip :=
  ⟨ofOffset_offset, offset_ofOffset⟩

/-! ### Reset -/

/-- After reset the debug port gives no byte of S: there is no S, or READY is 0. -/
theorem debugShadow_resetWith (g : Config) (j : Fin 1024) (t : State) :
    debugShadow (State.resetWith g) j ≠ .next t := by
  unfold debugShadow
  split
  · simp
  · simp [State.resetWith]

theorem statusWord_resetWith (g : Config) :
    statusWord (State.resetWith g) = if g.doubleBuffer then 0x0040 else 0x0000 := by
  simp only [statusWord, State.resetWith]
  cases g.doubleBuffer <;> decide

theorem bboxWords_resetWith (g : Config) :
    bboxColWord (State.resetWith g) = 0x0000 ∧ bboxPageWord (State.resetWith g) = 0x0000 := by
  simp only [bboxColWord, bboxPageWord, State.resetWith]
  decide

/-- Settles O8. -/
theorem resetGivesStatedValues : Obligations.ResetGivesStatedValues := by
  intro g
  obtain ⟨hcol, hpage⟩ := bboxWords_resetWith g
  have harg (n : Fin 8) : (State.resetWith g).arg.get n = 0x0000 := by simp [State.resetWith, Vector.get]
  exact ⟨⟨harg, rfl, rfl, rfl, rfl, rfl, rfl, rfl, rfl, rfl, hcol, hpage, statusWord_resetWith g,
    fun _ => rfl, debugShadow_resetWith g⟩, rfl⟩

/-! ### The source memory -/

/-- A blit in progress, and nothing else, holds the source memory. -/
theorem sourceInUse_iff (s : State) :
    sourceInUse s = true ↔ s.busy = true ∧ (s.current = .blit ∨ s.current = .blitrow) := by
  simp [sourceInUse]

/-- Settles O19. -/
theorem hostAccessesOutsideThePbu : Obligations.HostAccessesOutsideThePbu := by
  refine fun s => ⟨fun j hd => if_pos hd, fun a b => ⟨fun ha => if_pos ha, fun ha hb hc => ?_, fun ha hn => ?_⟩⟩
  · have hu : sourceInUse s = true := (sourceInUse_iff s).mpr ⟨hb, hc⟩
    exact (if_neg (Nat.not_le.mpr ha)).trans (if_pos hu)
  · have hu : ¬ sourceInUse s = true := by
      rw [sourceInUse_iff]
      rintro ⟨hb, hc⟩
      rcases hn with hn | ⟨hn, hn'⟩
      · simp [hb] at hn
      · exact hc.elim hn hn'
    exact ⟨_, (if_neg (Nat.not_le.mpr ha)).trans (if_neg hu), rfl, fun c => Memory.read_write s.src a c b⟩

/-! ### A command word from issue to run -/

/-- A CMD write of a command that may be issued is its acceptance. -/
theorem regWrite_cmd_accepted {s : State} {w : Word} {i : Instr} (hw : decode? w = some i) (hf : s.fault = false)
    (hb : s.busy = false) (hr : s.ready = true ∨ i = .nop ∨ i = .init) : regWrite s Reg.cmd.offset w = accept i s := by
  have hrun : (s.ready || runsUnready i) = true := by
    rw [Bool.or_eq_true, runsUnready_iff]
    exact hr
  simp [regWrite, issueCommand, hf, hb, hw, hrun]

/-- An enabled unit whose turn comes next takes a step of the command in progress. -/
theorem step_unit {s : State} {rest : List Turn} (ht : s.turns = .unit :: rest) (hb : s.busy = true)
    (hf : s.fault = false) : step s = exec s.current (setTurns s rest) := by
  have hen : unitEnabled (setTurns s rest) = true := by simp [unitEnabled, hb, hf]
  simp [step, ht, unitTurn, hen]

/-- Settles O49. -/
theorem issuedWordRunsItsCommand : Obligations.IssuedWordRunsItsCommand := by
  intro s w i rest hts hw hf hb hr
  have hstep : step s = .next (accept i (setTurns s (.unit :: rest))) := by
    rw [← regWrite_cmd_accepted (s := setTurns s (.unit :: rest)) hw hf hb hr, step, hts]
    rfl
  have hrun := step_unit (s := accept i (setTurns s (.unit :: rest))) (accept_turns ..) (accept_busy ..)
    ((accept_fault ..).trans hf)
  rw [accept_current] at hrun
  exact ⟨_, hstep, accept_current .., accept_busy .., accept_latched .., hrun⟩

/-- The table's numbering of a command's own word leads back to the command. -/
theorem decodeTableWord_encode (i : Instr) : decodeTableWord 16 (encode i).toNat = some i := by
  have hlt : 16 ≤ 16 ∧ (encode i).toNat < 2 ^ 16 := ⟨Nat.le_refl _, (encode i).isLt⟩
  rw [decodeTableWord, if_pos hlt, BitVec.ofNat_toNat, BitVec.setWidth_eq, decode?_encode]

/-- Settles O50. -/
theorem placedWordRunsNext : Obligations.PlacedWordRunsNext := by
  intro s i
  have hplace : s.withFetchWord 16 (encode i).toNat =
      setTurns (accept i { s with fault := false, cause := .none }) (.unit :: s.turns) := by
    rw [State.withFetchWord, decodeTableWord_encode]
  generalize hu : accept i { s with fault := false, cause := .none } = u at hplace ⊢
  have hturns : u.turns = s.turns := by rw [← hu, accept_turns]
  have hb : u.busy = true := by rw [← hu, accept_busy]
  have hf : u.fault = false := by rw [← hu, accept_fault]
  have hi : u.current = i := by rw [← hu, accept_current]
  rw [hplace, step_unit (s := setTurns u _) rfl hb hf, setTurns_current, hi, ← hturns]
  rfl

end Sys2Proof.Machine
end

section
/-!
SUPPORT. The byte stores (20_memory.md R61 to R66): Compose acts on one canvas byte, no command reaches outside the
canvas, and every step keeps the three stores in canonical form.
-/

namespace Sys2Proof.Machine

/-! ### Compose -/

theorem read_compose_same {i : Int} (h0 : 0 ≤ i) (h1 : i < 1024) (col : Color) (c : Memory) (m : Byte) :
    Memory.read (compose col c i m) i.toNat = Color.apply col (Memory.read c i.toNat) m := by
  rw [read_compose, if_pos (by omega)]

theorem read_compose_of_ne {i : Int} {a : Nat} (ha : a ≠ i.toNat) (col : Color) (c : Memory) (m : Byte) :
    Memory.read (compose col c i m) a = Memory.read c a := by
  rw [read_compose, if_neg (by omega)]

theorem read_compose_zero (col : Color) (c : Memory) (i : Int) (a : Nat) :
    Memory.read (compose col c i 0x00) a = Memory.read c a := by
  rw [read_compose, apply_zero, ite_self]

/-- Settles O32. -/
theorem composeActsOnOneByte : Obligations.ComposeActsOnOneByte := fun c i m h0 h1 =>
  ⟨read_compose_same h0 h1 .set c m, read_compose_same h0 h1 .clear c m, read_compose_same h0 h1 .invert c m,
    fun col _ ha => read_compose_of_ne ha col c m, fun col a => read_compose_zero col c i a⟩

/-! ### The canvas under a unit step -/

/-- Only INIT and the drawing commands write the canvas; INIT lists nothing in it. -/
theorem wf_canvas_of_unitStep {i : Instr} {s t : State} (hx : UnitStep s i t) (h : Memory.wf 1024 s.canvas = true) :
    Memory.wf 1024 t.canvas = true := by
  cases hx with
  | ends => exact h
  | inits => cases initOutcome s <;> exact Memory.wf_nil _
  | draws _ _ _ _ _ hc => exact hc h
  | sourceFault => rw [raiseFault_frame]; exact h
  | scans => rw [scanStep_frame]; exact h
  | transmits => rw [txStep_frame]; exact h

/-- Settles O34: canvases in canonical form, before and after, list nothing at or above 1024. -/
theorem drawingStaysInsideTheCanvas : Obligations.DrawingStaysInsideTheCanvas := by
  intro i s t hexec h
  have ht := wf_canvas_of_unitStep (unitStep_of_exec hexec) h
  exact ⟨ht, fun a ha => (Memory.read_of_size_le ht ha).trans (Memory.read_of_size_le h ha).symm⟩

/-! ### The three stores under a step -/

/-- The end of a scan writes no store. -/
theorem memInv_scanEnd {s : State} (h : memInv s) : memInv (scanEnd s) := by
  rcases scanEnd_cases s with ⟨-, he⟩ | ⟨-, he⟩ <;> rw [he] <;> exact h

/-- A scan step of a page of the canvas copies into the shadow inside its size. -/
theorem memInv_scanStep {s : State} (h : memInv s) (hp : s.seq.scanPage < 8) : memInv (scanStep s) := by
  obtain ⟨hc, hsh, hsrc⟩ := h
  have hscanned : memInv (scanned s) := ⟨hc, wf_scanPage hsh _ _ hp, hsrc⟩
  rw [scanStep_eq]
  split
  · exact memInv_scanEnd hscanned
  · exact hscanned

theorem memInv_raiseFault {s : State} (h : memInv s) (c : Cause) : memInv (raiseFault c s) := by
  rw [raiseFault_frame]
  exact h

/-- INIT drops or zeroes the stores it has, under either outcome. -/
theorem memInv_init {s : State} (h : memInv s) (ok : Bool) :
    memInv (endCommand (clearBBox (advanceDraw (if ok then initStorage s else dropStorage s)))) := by
  obtain ⟨-, hsh, hsrc⟩ := h
  have hsh' : Memory.wf 1024 (if s.cfg.doubleBuffer then [] else s.shadow) = true := by
    split
    · exact Memory.wf_nil _
    · exact hsh
  cases ok <;> exact ⟨Memory.wf_nil _, hsh', hsrc⟩

theorem memInv_unitStep {i : Instr} {s t : State} (h : memInv s) (hp : s.seq.scanPage < 8 ∨ s.seq.phase ≠ .scan)
    (hx : UnitStep s i t) : memInv t := by
  cases hx with
  | ends => exact h
  | inits => exact memInv_init h _
  | draws _ _ _ _ _ hc =>
    obtain ⟨hcanvas, hrest⟩ := h
    exact ⟨hc hcanvas, hrest⟩
  | sourceFault => exact memInv_raiseFault h _
  | scans hscan => exact memInv_scanStep h (hp.resolve_right (not_not_intro hscan))
  | transmits => rw [txStep_frame]; exact h

theorem memInv_hostStep {m : HostMove} {s t : State} (h : memInv s) (hx : HostStep s m t) : memInv t := by
  obtain ⟨hc, hsh, hsrc⟩ := h
  cases hx with
  | faults => exact memInv_raiseFault ⟨hc, hsh, hsrc⟩ _
  | accepts => rw [accept_frame]; exact ⟨hc, hsh, hsrc⟩
  | stores _ b ha => exact ⟨hc, hsh, Memory.wf_write hsrc ha b⟩
  | resets => exact ⟨Memory.wf_nil _, Memory.wf_nil _, hsrc⟩
  | ignored | colors | args | reads | readsCanvas | readsShadow | polls => exact ⟨hc, hsh, hsrc⟩

/-- Settles O55: the turn that a step takes away is in no store, and each unit step and host move keeps them. -/
theorem everyStepKeepsMemoryCanonical : Obligations.EveryStepKeepsMemoryCanonical := by
  intro s t h hp hstep
  obtain ⟨ts, rfl | ⟨i, -, hx⟩ | ⟨m, -, hx⟩⟩ := step_next hstep
  · exact h
  · exact memInv_unitStep (s := setTurns s ts) h hp hx
  · exact memInv_hostStep (s := setTurns s ts) h hx

end Sys2Proof.Machine
end

section
/-!
SUPPORT. The encoding (spec/30_encoding.md): the opcode map, numbers in the operand registers, and the register writes
of a statement up to the acceptance of its command.
-/

namespace Sys2Proof.Machine

/-! ### Command words -/

@[simp] theorem rsvField_encode (i : Instr) : rsvField (encode i) = 0 := by cases i <;> rfl

theorem opField_encode_le (i : Instr) : (opField (encode i)).toNat ≤ 0x0A := by cases i <;> decide

/-- R95, R97: the illegal words are those with reserved bits or a reserved opcode. -/
theorem decode?_eq_none_iff (w : Word) : decode? w = none ↔ rsvField w ≠ 0 ∨ 0x0A < (opField w).toNat := by
  constructor
  · intro h
    by_cases hr : rsvField w = 0
    · refine .inr (opcodeOf_eq_none ?_)
      cases ho : opcodeOf (opField w).toNat with
      | none => rfl
      | some i => simp [decode?, decode, hr, ho] at h
    · exact .inl hr
  · intro h
    cases hd : decode? w with
    | none => rfl
    | some i =>
      obtain rfl := decode?_eq_some hd
      have hle := opField_encode_le i
      rcases h with hr | ho
      · exact absurd (rsvField_encode i) hr
      · omega

/-- Settles O1. -/
theorem wordsDecodeByOpcodeMap : Obligations.WordsDecodeByOpcodeMap := by
  refine ⟨by decide, fun w i => ⟨decode?_eq_some, ?_⟩, decode?_eq_none_iff⟩
  rintro rfl
  exact decode?_encode i

/-- Settles O2. -/
theorem sampleWordsDecode : Obligations.SampleWordsDecode := by
  unfold Obligations.SampleWordsDecode
  decide

/-! ### Numbers in operand registers -/

/-- A number in the range of a signed slot survives its storage as 16 bits. -/
theorem sext16_word16 {v : Int} (hlo : -32768 ≤ v) (hhi : v ≤ 32767) : sext16 (word16 v) = v := by
  rw [sext16, word16, BitVec.toInt_ofInt]
  exact Int.bmod_eq_of_le (by omega) (by omega)

/-- A number in the range of an unsigned slot survives its storage as 16 bits. -/
theorem zext16_word16 {v : Int} (hlo : 0 ≤ v) (hhi : v ≤ 65535) : zext16 (word16 v) = v := by
  rw [zext16, word16, BitVec.toNat_ofInt]
  omega

/-- Settles O6. -/
theorem operandsReadBack : Obligations.OperandsReadBack := by
  intro l
  refine ⟨fun n v h hlo hhi => ?_, fun n v h hlo hhi => ?_, fun src h hlo hhi => ?_⟩
  · rw [Latched.s16, h, sext16_word16 hlo hhi]
  · rw [Latched.u16, h, zext16_word16 hlo hhi]
  · simp only [srcHalves, List.map_cons, List.map_nil, List.cons.injEq, and_true] at h
    obtain ⟨h4, h5⟩ := h
    rw [Latched.srcBase, Latched.u16, Latched.u16, h4, h5, zext16_word16 (by omega) (by omega),
      zext16_word16 (by omega) (by omega)]
    omega

/-! ### Statements -/

/-- Settles O4. -/
theorem workedEncodingOfBlitraw : Obligations.WorkedEncodingOfBlitraw := by
  unfold Obligations.WorkedEncodingOfBlitraw
  decide

theorem assemble_eq_none_iff (t : Stmt) : assemble t = none ↔ Stmt.wf t = false := by simp [assemble]

/-- `blitraw` asks of its operands what `blitrow` asks, and that its byte count fits an unsigned slot. -/
theorem wf_blitraw (x y w h src : Int) :
    Stmt.wf (.blitraw x y w h src) =
      (Stmt.wf (.blitrow x y w h src) && decide (0 ≤ w * ceil8 h) && decide (w * ceil8 h ≤ 65535)) := rfl

/-- Settles O5. -/
theorem pseudoInstructionsExpand : Obligations.PseudoInstructionsExpand := by
  refine ⟨rfl, rfl, rfl, fun _ _ _ _ _ => rfl, fun _ _ _ _ _ _ _ => rfl, fun x y w h src hwf => ?_⟩
  rw [assemble_eq_none_iff, wf_blitraw, hwf, Bool.true_and, Bool.and_eq_false_iff, decide_eq_false_iff_not,
    decide_eq_false_iff_not, Int.not_le, Int.not_le]

/-! ### The register writes of a command -/

/-- Register writes done one after another. -/
def doWrites (ws : List (BitVec 4 × Word)) (s : State) : State := ws.foldl (fun s p => regWrite s p.1 p.2) s

theorem doWrites_append (ws vs : List (BitVec 4 × Word)) (s : State) :
    doWrites (ws ++ vs) s = doWrites vs (doWrites ws s) := List.foldl_append

/-- A write to an operand register while FAULT = 0 reaches it. -/
theorem regWrite_arg {s : State} (hf : s.fault = false) (n : Fin 8) (v : Word) :
    regWrite s (BitVec.ofNat 4 (8 + n.val)) v = argWrite s n v := by
  simp [regWrite, hf]

/-- The operand written last goes to the ARG register after those of the operands before it. -/
theorem argWrites_concat (ops : List Int) (v : Int) :
    argWrites (ops ++ [v]) = argWrites ops ++ [(BitVec.ofNat 4 (8 + ops.length), word16 v)] := by
  simp [argWrites, List.zipIdx_append]

/-- The operand writes of a command change ARG only: register n holds operand n, where there is one. -/
theorem doWrites_argWrites {s : State} (hf : s.fault = false) (ops : List Int) (hlen : ops.length ≤ 8) :
    ∃ a : Vector Word 8, doWrites (argWrites ops) s = { s with arg := a } ∧
      ∀ n : Fin 8, a.get n = if h : n.val < ops.length then word16 ops[n.val] else s.arg.get n := by
  induction ops using List.reverseRecOn with
  | nil => exact ⟨s.arg, rfl, fun _ => rfl⟩
  | append_singleton ops v ih =>
    rw [List.length_append, List.length_singleton] at hlen
    obtain ⟨a, hdo, hget⟩ := ih (by omega)
    refine ⟨a.set ops.length (word16 v), ?_, fun n => ?_⟩
    · rw [argWrites_concat, doWrites_append, hdo]
      exact regWrite_arg (s := { s with arg := a }) hf ⟨ops.length, hlen⟩ (word16 v)
    · have hset : (a.set ops.length (word16 v)).get n = if ops.length = n.val then word16 v else a.get n :=
        Vector.getElem_set _ _
      rw [hset, hget]
      rcases Nat.lt_trichotomy n.val ops.length with hlt | heq | hgt
      · simp [hlt, Nat.ne_of_gt hlt, Nat.lt_succ_of_lt hlt]
      · simp [heq]
      · simp [Nat.ne_of_lt hgt, Nat.not_lt_of_gt hgt, Nat.not_lt.mpr hgt]

/-- Settles O7: the operand writes change ARG only, and the CMD write after them is the acceptance. -/
theorem assembledCommandIsAccepted : Obligations.AssembledCommandIsAccepted := by
  refine ⟨fun _ _ _ _ _ _ _ => ⟨rfl, rfl, rfl, rfl, rfl, rfl, rfl, rfl, rfl, rfl, rfl⟩, fun i ops s hlen hf hb hr => ?_⟩
  obtain ⟨a, hdo, hget⟩ := doWrites_argWrites hf ops hlen
  refine ⟨a, ?_, by rw [accept_latched], hget⟩
  calc doWrites (commandWrites i ops) s
      = regWrite (doWrites (argWrites ops) s) Reg.cmd.offset (encode i) := doWrites_append _ _ s
    _ = accept i { s with arg := a } := by
      rw [hdo]
      exact regWrite_cmd_accepted (s := { s with arg := a }) (decode?_encode i) hf hb hr

end Sys2Proof.Machine
end

section
/-!
SUPPORT. The poll loop `waitidle` (spec/30_encoding.md R101): one poll, and its end. Every unit step of a run brings the
command in progress nearer to its end, which is at most sixteen steps away.
-/

namespace Sys2Proof.Machine

/-! ### One poll -/

theorem getLsbD_append_ofBool_one {w : Nat} (x : BitVec w) (b r : Bool) :
    (x ++ BitVec.ofBool b ++ BitVec.ofBool r).getLsbD 1 = b := by
  rw [BitVec.getLsbD_append, BitVec.getLsbD_append]
  simp

/-- Bit 1 of STATUS is BUSY (10_state.md R34). -/
theorem getLsbD_statusWord_busy (s : State) : (statusWord s).getLsbD 1 = s.busy :=
  getLsbD_append_ofBool_one _ s.busy s.ready

/-- A poll reads STATUS; while BUSY is 1 a unit turn and another poll follow it. -/
theorem step_waitIdle {s : State} {rest : List Turn} (ht : s.turns = .host .waitIdle :: rest) :
    step s = .next { s with
      replies := s.replies ++ [.register Reg.status.offset (statusWord s)]
      turns := if s.busy then .unit :: .host .waitIdle :: rest else rest } := by
  have hpoll : step s = .next (waitIdle (setTurns s rest)) := by rw [step, ht]; rfl
  rw [hpoll]
  by_cases hb : s.busy = true
  · rw [if_pos hb]
    exact congrArg _ (if_pos hb)
  · rw [if_neg hb]
    exact congrArg _ (if_neg hb)

/-- Settles O58. -/
theorem waitIdlePollsStatus : Obligations.WaitIdlePollsStatus := by
  intro s rest ht
  rw [getLsbD_statusWord_busy]
  exact step_waitIdle ht

/-! ### How far the command in progress is from its end -/

/-- Every command has its unit step. -/
theorem exec_completes (i : Instr) (s : State) : ∃ t, exec i s = .next t := by
  cases i with
  | blit => rcases execBlit_cases s with h | ⟨-, h⟩ | h <;> exact ⟨_, h⟩
  | blitrow => rcases execBlitrow_cases s with h | ⟨-, h⟩ | h <;> exact ⟨_, h⟩
  | _ => exact ⟨_, rfl⟩

/-- A unit step writes no schedule. -/
theorem turns_of_unitStep {i : Instr} {s t : State} (h : UnitStep s i t) : t.turns = s.turns := by
  cases h with
  | ends => rfl
  | inits => rw [init_frame]
  | draws => rfl
  | sourceFault => rw [raiseFault_frame]
  | scans => rw [scanStep_frame]
  | transmits => rw [txStep_frame]

/-- In a run no fault stands beside a command in progress. -/
theorem not_fault_of_busy {s : State} (h : State.Inv s) (hb : s.busy = true) : s.fault = false := by
  obtain ⟨-, -, ⟨-, hfb, -⟩, -⟩ := h
  by_contra hf
  exact absurd (hb.symm.trans (hfb (by simpa using hf))) (by decide)

/-- A bound on the unit steps a SYNC still takes: one for each page to scan and one for each page to send. -/
def syncStepsLeft (q : Seq) : Nat :=
  match q.phase with
  | .scan => 16 - q.scanPage
  | .setup => q.maxPage + 1 - q.minPage
  | .tx => q.maxPage + 1 - q.txPage

theorem syncStepsLeft_scan {q : Seq} (hp : q.phase = .scan) : syncStepsLeft q = 16 - q.scanPage := by
  simp only [syncStepsLeft, hp]

theorem syncStepsLeft_setup {q : Seq} (hp : q.phase = .setup) : syncStepsLeft q = q.maxPage + 1 - q.minPage := by
  simp only [syncStepsLeft, hp]

theorem syncStepsLeft_tx {q : Seq} (hp : q.phase = .tx) : syncStepsLeft q = q.maxPage + 1 - q.txPage := by
  simp only [syncStepsLeft, hp]

/-- A SYNC of a run has a step to take, and at most sixteen: eight pages to scan and eight to send. -/
theorem syncStepsLeft_bounds {s : State} (h : syncInv s) : 0 < syncStepsLeft s.seq ∧ syncStepsLeft s.seq ≤ 16 := by
  unfold syncInv at h
  cases hp : s.seq.phase with
  | scan =>
    simp only [hp] at h
    obtain ⟨-, -, hlt, -⟩ := h
    rw [syncStepsLeft_scan hp]
    omega
  | setup =>
    simp only [hp] at h
    obtain ⟨-, ⟨-, -, hle, hlt⟩, -⟩ := h
    rw [syncStepsLeft_setup hp]
    omega
  | tx =>
    simp only [hp] at h
    obtain ⟨-, ⟨-, -, -, hlt⟩, -, -, -, hle⟩ := h
    rw [syncStepsLeft_tx hp]
    omega

/-- A bound on the unit steps the command in progress still takes. -/
def stepsLeft (s : State) : Nat :=
  if s.busy then if s.current = .sync then syncStepsLeft s.seq else 1 else 0

theorem stepsLeft_idle {s : State} (hb : s.busy = false) : stepsLeft s = 0 := by simp [stepsLeft, hb]

theorem stepsLeft_sync {s : State} (hb : s.busy = true) (hs : s.current = .sync) :
    stepsLeft s = syncStepsLeft s.seq := by simp [stepsLeft, hb, hs]

theorem stepsLeft_pos {s : State} (h : State.Inv s) (hb : s.busy = true) : 0 < stepsLeft s := by
  by_cases hs : s.current = .sync
  · obtain ⟨-, -, -, hsync, -⟩ := h
    obtain ⟨hpos, -⟩ := syncStepsLeft_bounds (hsync hb hs)
    rwa [stepsLeft_sync hb hs]
  · simp [stepsLeft, hb, hs]

theorem stepsLeft_le {s : State} (h : State.Inv s) : stepsLeft s ≤ 16 := by
  obtain ⟨-, -, -, hsync, -⟩ := h
  unfold stepsLeft
  split
  · next hb =>
    split
    · next hs =>
      obtain ⟨-, hle⟩ := syncStepsLeft_bounds (hsync hb hs)
      exact hle
    · decide
  · decide

/-- A step that ends the command leaves no step to take. -/
theorem stepsLeft_lt_of_ended {s t : State} (h : State.Inv s) (hb : s.busy = true) (ht : t.busy = false) :
    stepsLeft t < stepsLeft s := by
  rw [stepsLeft_idle ht]
  exact stepsLeft_pos h hb

/-- A step that goes on with a SYNC is measured on the sequencer alone. -/
theorem stepsLeft_lt_of_sync {s t : State} (hb : s.busy = true) (hs : s.current = .sync) (hbt : t.busy = true)
    (hst : t.current = .sync) (hlt : syncStepsLeft t.seq < syncStepsLeft s.seq) : stepsLeft t < stepsLeft s := by
  rw [stepsLeft_sync hb hs, stepsLeft_sync hbt hst]
  exact hlt

/-- A scan step leaves one page fewer to scan, and after the last one at most the eight pages of the canvas to send. -/
theorem stepsLeft_scanStep {s : State} (h : State.Inv s) (hb : s.busy = true) (hs : s.current = .sync)
    (hp : s.seq.phase = .scan) : stepsLeft (scanStep s) < stepsLeft s := by
  have hinv := inv_scanStep h hb hs hp
  rw [scanStep_eq] at hinv ⊢
  by_cases hlast : s.seq.scanPage + 1 = 8
  · rw [if_pos hlast] at hinv ⊢
    rcases scanEnd_cases (scanned s) with ⟨-, he⟩ | ⟨-, he⟩
    · exact stepsLeft_lt_of_ended h hb (by rw [he])
    · rw [he] at hinv ⊢
      obtain ⟨-, -, -, hsync, -⟩ := hinv
      obtain ⟨-, ⟨-, -, -, hmax⟩, -⟩ := hsync hb hs
      refine stepsLeft_lt_of_sync hb hs hb hs ?_
      rw [syncStepsLeft_scan hp, syncStepsLeft_setup rfl]
      dsimp only at hmax ⊢
      omega
  · rw [if_neg hlast]
    obtain ⟨-, hphase, -, -⟩ := boxGrows_scanPage s.canvas s.shadow s.seq s.seq.scanPage
    have hscan : (scanned s).seq.phase = .scan := hphase.trans hp
    obtain ⟨-, -, -, hsync, -⟩ := h
    have hq := hsync hb hs
    simp only [syncInv, hp] at hq
    obtain ⟨-, -, hlt, -⟩ := hq
    refine stepsLeft_lt_of_sync hb hs hb hs ?_
    rw [syncStepsLeft_scan hp, syncStepsLeft_scan hscan]
    exact Nat.sub_lt_sub_left (by omega) (Nat.lt_succ_self _)

/-- Sending a page of the box leaves one page fewer to send. -/
theorem stepsLeft_txRow {s : State} (h : State.Inv s) (hb : s.busy = true) (hs : s.current = .sync)
    (hp : s.seq.phase = .tx) : stepsLeft (txRow s) < stepsLeft s := by
  rcases txRow_cases s with ⟨hmore, he⟩ | ⟨-, he⟩
  · rw [he]
    refine stepsLeft_lt_of_sync hb hs hb hs ?_
    rw [syncStepsLeft_tx hp, syncStepsLeft_tx (by exact hp)]
    dsimp only
    omega
  · exact stepsLeft_lt_of_ended h hb (by rw [he])

/-- A transmit step sends one page; the setup before the first one sends none. -/
theorem stepsLeft_txStep {s : State} (h : State.Inv s) (hb : s.busy = true) (hs : s.current = .sync)
    (hp : s.seq.phase ≠ .scan) : stepsLeft (txStep s) < stepsLeft s := by
  unfold txStep
  cases hph : s.seq.phase with
  | scan => exact absurd hph hp
  | setup =>
    have hsetup : stepsLeft (setup s) = stepsLeft s := by
      rw [stepsLeft_sync hb hs, syncStepsLeft_setup hph]
      exact stepsLeft_sync (s := setup s) hb hs
    rw [if_pos rfl, ← hsetup]
    exact stepsLeft_txRow (inv_setup h hb hs hph) hb hs rfl
  | tx => exact stepsLeft_txRow h hb hs hph

/-- Every unit step of a run brings the command in progress nearer to its end. -/
theorem stepsLeft_unitStep {s t : State} (h : State.Inv s) (hb : s.busy = true) (hx : UnitStep s s.current t) :
    stepsLeft t < stepsLeft s := by
  generalize hi : s.current = i at hx
  cases hx with
  | ends => exact stepsLeft_lt_of_ended h hb rfl
  | inits => exact stepsLeft_lt_of_ended h hb rfl
  | draws => exact stepsLeft_lt_of_ended h hb rfl
  | sourceFault => exact stepsLeft_lt_of_ended h hb (raiseFault_not_busy _ _)
  | scans hp => exact stepsLeft_scanStep h hb hi hp
  | transmits hp => exact stepsLeft_txStep h hb hi hp

/-! ### The end of the poll loop -/

/-- A run goes on from the state its first step answers. -/
theorem coreRun_succ (M : Host.Core) {s t : M.State} (h : M.step s = .next t) (k : Nat) :
    M.run (k + 1) s = M.run k t := by
  rw [Host.Core.run, h]

theorem run_succ {s t : State} (h : step s = .next t) (k : Nat) : run (k + 1) s = run k t :=
  coreRun_succ Sys2Proof.core h k

/-- While BUSY is 1 a poll and the unit turn after it lead to the next poll, with the command nearer to its end. -/
theorem waitIdle_round {s : State} {rest : List Turn} (h : State.Inv s) (ht : s.turns = .host .waitIdle :: rest)
    (hb : s.busy = true) :
    ∃ t u : State, step s = .next t ∧ step t = .next u ∧ State.Inv u ∧ u.turns = .host .waitIdle :: rest ∧
      stepsLeft u < stepsLeft s := by
  have hpoll := step_waitIdle ht
  rw [if_pos hb] at hpoll
  have hinv := everyStepKeepsTheInvariant _ _ h hpoll
  generalize hpolled : ({ s with
    replies := s.replies ++ [.register Reg.status.offset (statusWord s)]
    turns := .unit :: .host .waitIdle :: rest } : State) = t at hpoll hinv
  have hturns : t.turns = .unit :: .host .waitIdle :: rest := by rw [← hpolled]
  have hbusy : t.busy = true := by rw [← hpolled]; exact hb
  have hleft : stepsLeft t = stepsLeft s := by rw [← hpolled]; rfl
  obtain ⟨u, hu⟩ := exec_completes t.current (setTurns t (.host .waitIdle :: rest))
  have hstep : step t = .next u := (step_unit hturns hbusy (not_fault_of_busy hinv hbusy)).trans hu
  have hx := unitStep_of_exec hu
  refine ⟨t, u, hpoll, hstep, everyStepKeepsTheInvariant t u hinv hstep, turns_of_unitStep hx, hleft ▸ ?_⟩
  exact stepsLeft_unitStep (s := setTurns t (.host .waitIdle :: rest)) hinv hbusy hx

/-- The poll that finds BUSY = 0 ends the loop. -/
theorem waitIdle_last {s : State} {rest : List Turn} (ht : s.turns = .host .waitIdle :: rest) (hb : s.busy = false) :
    ∃ t : State, run 1 s = .next t ∧ t.turns = rest ∧ t.busy = false := by
  have hpoll := step_waitIdle ht
  rw [if_neg (by simp [hb])] at hpoll
  exact ⟨_, run_succ hpoll 0, rfl, hb⟩

/-- The loop takes at most two steps for each unit step the command still takes, and one for the last poll. -/
theorem waitIdle_ends {s : State} {rest : List Turn} (h : State.Inv s) (ht : s.turns = .host .waitIdle :: rest) :
    ∃ (k : Nat) (t : State), k ≤ 2 * stepsLeft s + 1 ∧ run k s = .next t ∧ t.turns = rest ∧ t.busy = false := by
  induction hn : stepsLeft s using Nat.strong_induction_on generalizing s with
  | h n ih =>
    subst hn
    cases hb : s.busy with
    | false => exact ⟨1, (waitIdle_last ht hb).imp fun _ hlast => ⟨by omega, hlast⟩⟩
    | true =>
      obtain ⟨t, u, hpoll, hstep, hinv, hturns, hless⟩ := waitIdle_round h ht hb
      obtain ⟨k, v, hk, hrun, hend⟩ := ih _ hless hinv hturns rfl
      exact ⟨k + 2, v, by omega, (run_succ hpoll (k + 1)).trans ((run_succ hstep k).trans hrun), hend⟩

/-- Settles O59: no command of a run takes more than sixteen unit steps. -/
theorem waitIdleEnds : Obligations.WaitIdleEnds := by
  intro s rest h ht
  obtain ⟨k, t, hk, hend⟩ := waitIdle_ends h ht
  have hle := stepsLeft_le h
  exact ⟨k, t, by omega, hend⟩

end Sys2Proof.Machine
end

section
/-!
SUPPORT. The host interface and the control commands (spec/40_control.md): what a register read returns, what a register
write does, and the unit steps of NOP and INIT.
-/

namespace Sys2Proof.Machine

/-! ### Register reads -/

/-- STATUS holds six flags and SYNC_STATE at the places R34 of 10_state.md gives them, with zeros above. -/
theorem statusWord_fields (s : State) :
    (statusWord s).getLsbD 0 = s.ready ∧ (statusWord s).getLsbD 1 = s.busy ∧
      (statusWord s).extractLsb' 2 2 = syncStateCode s.syncState ∧ (statusWord s).getLsbD 4 = s.fault ∧
      (statusWord s).getLsbD 5 = s.initFail ∧ (statusWord s).getLsbD 6 = s.cfg.doubleBuffer ∧
      (statusWord s).getLsbD 7 = s.bboxValid ∧ (statusWord s).extractLsb' 8 8 = 0x00 := by
  unfold statusWord
  generalize s.bboxValid = v, s.cfg.doubleBuffer = d, s.initFail = i, s.fault = f, s.busy = b, s.ready = r
  cases s.syncState <;> revert v d i f b r <;> decide

/-- COLOR reads its code with zeros above (10_state.md R35). -/
theorem colorWord_fields (s : State) :
    (colorWord s).extractLsb' 0 2 = colorCode s.color ∧ (colorWord s).extractLsb' 2 14 = 0 := by
  unfold colorWord
  cases s.color <;> decide

/-- CAUSE reads its code with zeros above (10_state.md R36). -/
theorem causeWord_fields (s : State) :
    (causeWord s).extractLsb' 0 8 = causeCode s.cause ∧ (causeWord s).extractLsb' 8 8 = 0x00 := by
  unfold causeWord
  cases s.cause <;> decide

/-- The phase of a SYNC in progress is what SYNC_STATE reports of it (10_state.md R44). -/
theorem syncStateCode_of_syncInv {s : State} (h : syncInv s) :
    syncStateCode s.syncState = if s.seq.phase = .scan then 1 else 2 := by
  cases hp : s.seq.phase <;> simp only [syncInv, hp] at h
  case scan =>
    obtain ⟨-, hss, -⟩ := h
    rw [hss]
    rfl
  case setup | tx =>
    obtain ⟨hss, -⟩ := h
    rw [hss]
    rfl

/-- Offset 8 + n reads ARG n. -/
theorem regRead_arg (s : State) (n : Fin 8) : regRead s (BitVec.ofNat 4 (8 + n.val)) = s.arg.get n := by
  simp [regRead]

/-- Settles O10: each offset reads the word of its register, and the words hold the fields R110 gives them. -/
theorem registerReadValues : Obligations.RegisterReadValues := by
  intro s
  obtain ⟨hcolor, hcolorHigh⟩ := colorWord_fields s
  obtain ⟨hcause, hcauseHigh⟩ := causeWord_fields s
  obtain ⟨-, -, hss, -⟩ := statusWord_fields s
  refine ⟨fun _ => rfl, rfl, statusWord_fields s, hcolor, hcolorHigh, hcause, hcauseHigh,
    BitVec.extractLsb'_append_eq_right, BitVec.extractLsb'_append_eq_left,
    BitVec.extractLsb'_append_eq_right, BitVec.extractLsb'_append_eq_left, rfl, rfl, regRead_arg s, ?_⟩
  rintro ⟨-, -, -, hsync, -⟩ hb hc
  exact hss.trans (syncStateCode_of_syncInv (hsync hb hc))

/-! ### Register writes -/

/-- While FAULT = 1 a register write is ignored (60_exceptions.md R204). -/
theorem regWrite_of_fault {s : State} (hf : s.fault = true) (off : BitVec 4) (v : Word) : regWrite s off v = s :=
  if_pos hf

/-- While FAULT = 0 a write of offset 0 issues a command. -/
theorem regWrite_cmd {s : State} (hf : s.fault = false) (v : Word) : regWrite s 0x0 v = issueCommand s v := by
  rw [regWrite, hf]
  rfl

/-- While FAULT = 0 a write of offset 2 writes COLOR. -/
theorem regWrite_color {s : State} (hf : s.fault = false) (v : Word) : regWrite s 0x2 v = colorWrite s v := by
  rw [regWrite, hf]
  rfl

/-- A write of the offset of a read-only or reserved register is ignored (R111). -/
theorem regWrite_ignored (s : State) {off : BitVec 4} (v : Word)
    (hoff : off = 0x1 ∨ off = 0x3 ∨ off = 0x4 ∨ off = 0x5 ∨ off = 0x6 ∨ off = 0x7) : regWrite s off v = s := by
  rcases hoff with rfl | rfl | rfl | rfl | rfl | rfl <;> exact ite_self s

/-- Settles O11. -/
theorem registerWriteMap : Obligations.RegisterWriteMap := by
  refine fun s off v => ⟨fun hf => congrArg _ (regWrite_of_fault hf off v), fun hf => ⟨?_, ?_, ?_, ?_⟩⟩
  · rintro rfl
    exact congrArg _ (regWrite_cmd hf v)
  · rintro rfl
    exact congrArg _ (regWrite_color hf v)
  · rintro n rfl
    exact congrArg _ (regWrite_arg hf n v)
  · exact fun hoff => congrArg _ (regWrite_ignored s v hoff)

/-- A COLOR write of a colour's code sets that colour, whatever the bits above it (R114). -/
theorem colorWrite_code {v : Word} {c : Color} (s : State) (h : v.extractLsb' 0 2 = colorCode c) :
    colorWrite s v = { s with color := c } := by
  have hc : colorOfCode (colorCode c) = some c := by cases c <;> rfl
  rw [colorWrite, h, hc]

/-- A COLOR write of the code 3 is illegal (R114). -/
theorem colorWrite_three {v : Word} (s : State) (h : v.extractLsb' 0 2 = 3) :
    colorWrite s v = raiseFault .illegalColor s := by
  rw [colorWrite, h]
  rfl

/-- Settles O12: of the four codes three are a colour's, and the fault latch leaves COLOR as it is. -/
theorem colorWriteTakesLowBits : Obligations.ColorWriteTakesLowBits := by
  intro s v hf
  have hwrite {t : State} (h : colorWrite s v = t) : hostMove (.write 0x2 v) s = .next t :=
    congrArg _ ((regWrite_color hf v).trans h)
  refine ⟨fun h => hwrite (colorWrite_code s h), fun h => hwrite (colorWrite_code s h),
    fun h => hwrite (colorWrite_code s h), fun h => ⟨hwrite (colorWrite_three s h), ?_⟩⟩
  rw [raiseFault_frame]

/-- Settles O13. -/
theorem argWriteTakesEffectAtOnce : Obligations.ArgWriteTakesEffectAtOnce := by
  refine fun s n v hf => ⟨argWrite s n v, congrArg _ (regWrite_arg hf n v), rfl, ?_, fun m hm => ?_⟩
  · exact (regRead_arg _ n).trans (Vector.getElem_set_self _)
  · exact Vector.getElem_set_ne n.isLt m.isLt fun h => hm (Fin.ext h.symm)

/-! ### NOP -/

/-- A CMD write while a command is in progress is a BUSY_VIOLATION, whatever its word (60_exceptions.md R202). -/
theorem issueCommand_of_busy {s : State} (hf : s.fault = false) (hb : s.busy = true) (w : Word) :
    issueCommand s w = raiseFault .busyViolation s := by
  simp [issueCommand, hf, hb]

/-- The commands that need no READY are accepted whenever the unit is idle; acceptance only latches and sets BUSY. -/
theorem hostMove_issue_unready {s : State} (hf : s.fault = false) (hb : s.busy = false) {i : Instr}
    (hi : i = .nop ∨ i = .init) :
    hostMove (.write 0x0 (encode i)) s =
      .next { s with latched := ⟨s.arg, s.color⟩, busy := true, current := i } := by
  have hs : i ≠ .sync := by rcases hi with rfl | rfl <;> decide
  rw [← accept_of_ne_sync hs]
  exact congrArg _ (regWrite_cmd_accepted (decode?_encode i) hf hb (.inr hi))

/-- Settles O21. -/
theorem nopOnlyClearsBusy : Obligations.NopOnlyClearsBusy := by
  refine ⟨rfl, fun s => ⟨rfl, fun hf hb => hostMove_issue_unready hf hb (.inl rfl), fun hf hb => ?_⟩⟩
  exact congrArg _ ((regWrite_cmd hf _).trans (issueCommand_of_busy hf hb _))

/-! ### INIT -/

/-- The unit step of INIT under either outcome: READY is the outcome drawn and INIT_FAIL its opposite (R112). -/
theorem execInit_eq (s : State) :
    execInit s = .next { s with
      canvas := [], shadow := if s.cfg.doubleBuffer then [] else s.shadow
      ready := initOutcome s, initFail := !initOutcome s
      busy := false, bboxValid := false, bbox := ⟨0x00, 0x00, 0x00, 0x00⟩
      initOutcomes := s.initOutcomes.tail, initDraws := s.initDraws + 1 } := by
  rcases execInit_cases s with ⟨ho, h⟩ | ⟨ho, h⟩ <;> rw [h, ho] <;> rfl

/-- While READY = 0 the debug port gives no byte of S: there is no S, or the read is refused (60_exceptions.md R214). -/
theorem debugShadow_ne_next {s : State} (hr : s.ready = false) (j : Fin 1024) (t : State) :
    debugShadow s j ≠ .next t := by
  unfold debugShadow
  split
  · simp
  · simp [hr]

/-- Settles O22. -/
theorem initReportsItsOutcome : Obligations.InitReportsItsOutcome := by
  refine ⟨rfl, fun s hf hb => hostMove_issue_unready hf hb (.inr rfl), fun s => ⟨_, execInit_eq s, rfl, ?_, ?_, ?_⟩⟩
  · exact fun ho => ⟨ho, by simp [ho], fun _ => rfl, fun hd a => by simp [hd, unlistedByte]⟩
  · refine fun ho => ⟨ho, by simp [ho], fun j => ⟨?_, debugShadow_ne_next ho j⟩⟩
    simp [debugCanvas, ho]
  · exact fun hd => by simp [hd]

/-- INIT draws the first of the coming draws (00_scope.md R7, log 7). -/
theorem initOutcome_cons {s : State} {o : Bool} {os : List Bool} (h : s.initOutcomes = o :: os) :
    initOutcome s = o := by
  rw [initOutcome, h]

/-- With no draw coming INIT draws the free value at the count (log 7). -/
theorem initOutcome_nil {s : State} (h : s.initOutcomes = []) :
    initOutcome s = Config.initOutcome s.initDraws := by
  rw [initOutcome, h]

/-- Settles O60: the outcome is read from the draws alone, and INIT writes every field that may differ but S, which it
writes with DOUBLE_BUFFER only. -/
theorem eachInitDrawsAfresh : Obligations.EachInitDrawsAfresh := by
  refine ⟨fun s => ⟨_, execInit_eq s, rfl, rfl, rfl, fun o os h => ⟨initOutcome_cons h, ?_⟩, initOutcome_nil⟩,
    fun s c d r f b v box => ?_⟩
  · exact congrArg List.tail h
  · intro u
    have hu := execInit_eq u
    have hs := execInit_eq s
    have ho : initOutcome u = initOutcome s := rfl
    have hcfg : u.cfg = s.cfg := rfl
    rw [ho, hcfg] at hu
    refine ⟨fun hd => ?_, fun hd => ⟨_, hs, ?_⟩⟩
    · rw [if_pos hd] at hu hs
      exact hu.trans hs.symm
    · rw [if_neg (by simp [hd])] at hu
      exact hu

end Sys2Proof.Machine
end

section
/-!
SUPPORT. The canvas as pixels (20_memory.md R61, R67): where a pixel stands in its byte, and how many times a drawing
composes it. A drawing is followed by the number of its compositions of each pixel, which add up from one part to the
next; under INVERT this number matters, and the figures that claims speak of are the pixels where it is 1.
-/

namespace Sys2Proof.Machine

/-! ### Pixels and bytes -/

theorem inCanvas_iff {x y : Int} : inCanvas x y = true ↔ 0 ≤ x ∧ x < 128 ∧ 0 ≤ y ∧ y < 64 := by
  simp [inCanvas, and_assoc]

/-- Composing byte (x, page p) reaches the pixels of column x and page p, each in its own lane. -/
theorem pixel_compose {x px py : Int} (h0 : 0 ≤ x) (h1 : x < 128) (hp : inCanvas px py = true) (col : Color) (c : Memory)
    (p : Int) (m : Byte) :
    pixel (compose col c (x + p * 128) m) px py =
      if px = x ∧ py / 8 = p then Color.bit col (pixel c px py) (m.getLsbD (py % 8).toNat) else pixel c px py := by
  rw [inCanvas_iff] at hp
  unfold pixel pixIndex
  rw [read_compose]
  by_cases hx : px = x ∧ py / 8 = p
  · rw [if_pos hx, if_pos (by omega), getLsbD_apply col _ m (by omega)]
  · rw [if_neg hx, if_neg (by omega)]

/-- The bytes of the canvas are its pixels. -/
theorem read_eq_of_pixel_eq {c d : Memory} (hp : ∀ px py : Int, inCanvas px py = true → pixel d px py = pixel c px py)
    (hout : ∀ a : Nat, 1024 ≤ a → Memory.read d a = Memory.read c a) (a : Nat) : Memory.read d a = Memory.read c a := by
  by_cases ha : 1024 ≤ a
  · exact hout a ha
  · refine BitVec.eq_of_getLsbD_eq fun k hk => ?_
    have hbyte : (pixIndex (a % 128 : Nat) ((a / 128 * 8 + k : Nat) : Int)).toNat = a := by unfold pixIndex; omega
    have hlane : (((a / 128 * 8 + k : Nat) : Int) % 8).toNat = k := by omega
    have hpix := hp (a % 128 : Nat) ((a / 128 * 8 + k : Nat) : Int) (inCanvas_iff.mpr (by omega))
    unfold pixel at hpix
    rwa [hbyte, hlane] at hpix

/-! ### Composing one pixel several times -/

@[simp] theorem Color.bit_false (col : Color) (b : Bool) : Color.bit col b false = b := by
  cases col <;> simp [Color.bit]

/-- A pixel after k compositions of colour `col` on it. -/
def Color.bitTimes (col : Color) (k : Nat) (b : Bool) : Bool := (fun b => Color.bit col b true)^[k] b

@[simp] theorem Color.bitTimes_zero (col : Color) (b : Bool) : Color.bitTimes col 0 b = b := rfl

@[simp] theorem Color.bitTimes_one (col : Color) (b : Bool) : Color.bitTimes col 1 b = Color.bit col b true := rfl

theorem Color.bitTimes_succ (col : Color) (k : Nat) (b : Bool) :
    Color.bitTimes col (k + 1) b = Color.bit col (Color.bitTimes col k b) true :=
  Function.iterate_succ_apply' ..

theorem Color.bitTimes_add (col : Color) (m n : Nat) (b : Bool) :
    Color.bitTimes col (m + n) b = Color.bitTimes col n (Color.bitTimes col m b) := by
  rw [Nat.add_comm]
  exact Function.iterate_add_apply ..

theorem Color.bitTimes_set (k : Nat) (b : Bool) : Color.bitTimes .set k b = (b || decide (0 < k)) := by
  cases k with
  | zero => simp
  | succ k => simp [Color.bitTimes_succ, Color.bit]

theorem Color.bitTimes_clear (k : Nat) (b : Bool) : Color.bitTimes .clear k b = (b && decide (k = 0)) := by
  cases k with
  | zero => simp
  | succ k => simp [Color.bitTimes_succ, Color.bit]

theorem Color.bitTimes_invert (k : Nat) (b : Bool) : Color.bitTimes .invert k b = xor b (decide (k % 2 = 1)) := by
  induction k with
  | zero => simp
  | succ k ih =>
    rw [Color.bitTimes_succ, ih]
    rcases Nat.mod_two_eq_zero_or_one k with hk | hk <;> simp [Color.bit, Nat.add_mod, hk]

/-! ### Drawings by their number of compositions -/

/-- Canvas d is canvas c with colour `col` composed n px py times on each in-canvas pixel, and nothing outside. -/
structure ComposedTimes (col : Color) (n : Int → Int → Nat) (c d : Memory) : Prop where
  pixels : ∀ px py : Int, inCanvas px py = true → pixel d px py = Color.bitTimes col (n px py) (pixel c px py)
  outside : ∀ a : Nat, 1024 ≤ a → Memory.read d a = Memory.read c a

section
variable {col : Color} {m n : Int → Int → Nat} {c d e : Memory}

/-- Only the numbers of in-canvas pixels count. -/
theorem composedTimes_congr (h : ComposedTimes col m c d)
    (hmn : ∀ px py : Int, inCanvas px py = true → m px py = n px py) : ComposedTimes col n c d :=
  ⟨fun px py hp => hmn px py hp ▸ h.pixels px py hp, h.outside⟩

theorem composedTimes_of_eq_zero (hn : ∀ px py : Int, inCanvas px py = true → n px py = 0) : ComposedTimes col n c c :=
  ⟨fun px py hp => by rw [hn px py hp, Color.bitTimes_zero], fun _ _ => rfl⟩

theorem composedTimes_trans (h : ComposedTimes col m c d) (k : ComposedTimes col n d e) :
    ComposedTimes col (fun px py => m px py + n px py) c e :=
  ⟨fun px py hp => by rw [k.pixels px py hp, h.pixels px py hp, Color.bitTimes_add],
    fun a ha => (k.outside a ha).trans (h.outside a ha)⟩

/-- Compositions that are 1 on a figure and 0 elsewhere compose the figure once. -/
theorem composed_of_composedTimes {fig : Int → Int → Prop} (h : ComposedTimes col n c d)
    (h1 : ∀ px py : Int, fig px py → n px py = 1) (h0 : ∀ px py : Int, ¬ fig px py → n px py = 0) :
    composed col fig c d := by
  refine ⟨fun px py hp hfig => ?_, fun px py hp hfig => ?_, h.outside⟩
  · rw [h.pixels px py hp, h1 px py hfig, Color.bitTimes_one]
  · rw [h.pixels px py hp, h0 px py hfig, Color.bitTimes_zero]

/-- Canvases that stand at the same numbers of compositions read the same. -/
theorem read_eq_of_composedTimes (h : ComposedTimes col n c d) (k : ComposedTimes col n c e) (a : Nat) :
    Memory.read d a = Memory.read e a :=
  read_eq_of_pixel_eq (fun px py hp => (h.pixels px py hp).trans (k.pixels px py hp).symm)
    (fun a ha => (h.outside a ha).trans (k.outside a ha).symm) a

end

/-- In a loop over `intRange a b` whose step k composes only the pixels of key k, each pixel is composed in the step of
its key. -/
theorem composedTimes_foldl_intRange {col : Color} {f : Memory → Int → Memory} {key : Int → Int → Int}
    {n : Int → Int → Nat} {a b : Int}
    (hf : ∀ (c : Memory) (k : Int), a ≤ k → k ≤ b →
      ComposedTimes col (fun px py => if key px py = k then n px py else 0) c (f c k)) (c : Memory) :
    ComposedTimes col (fun px py => if a ≤ key px py ∧ key px py ≤ b then n px py else 0) c
      ((intRange a b).foldl f c) := by
  have upTo (j : Nat) (hj : (j : Int) ≤ b - a + 1) :
      ComposedTimes col (fun px py => if a ≤ key px py ∧ key px py < a + j then n px py else 0) c
        ((List.range j).foldl (fun c (k : Nat) => f c (a + k)) c) := by
    induction j with
    | zero => exact composedTimes_of_eq_zero fun px py _ => if_neg (by omega)
    | succ j ih =>
      rw [List.range_succ, List.foldl_append]
      refine composedTimes_congr (composedTimes_trans (ih (by omega)) (hf _ (a + j) (by omega) (by omega)))
        fun px py _ => ?_
      split_ifs <;> omega
  unfold intRange
  rw [List.foldl_map]
  by_cases hab : a ≤ b + 1
  · refine composedTimes_congr (upTo (b - a + 1).toNat (by omega)) fun px py _ => ?_
    split_ifs <;> omega
  · rw [Int.toNat_eq_zero.mpr (by omega)]
    exact composedTimes_of_eq_zero fun px py _ => if_neg (by omega)

end Sys2Proof.Machine
end

section
/-!
SUPPORT. The canvas commands (spec/41_pixel_buffer.md): how many times each drawing composes each pixel, from the run of
bits in one byte up to RECT and FILLRECT.
-/

namespace Sys2Proof.Machine

/-! ### Lines by their number of compositions -/

/-- How many times HLINE x, y, len composes a pixel (R123). -/
def hLineCover (x y len px py : Int) : Nat := if py = y ∧ x ≤ px ∧ px < x + len then 1 else 0

/-- How many times VLINE x, y, len composes a pixel (R124). -/
def vLineCover (x y len px py : Int) : Nat := if px = x ∧ y ≤ py ∧ py < y + len then 1 else 0

/-- The clipped span has the pixels of the span that are inside the bound, and no other. -/
theorem mem_clipSpan_iff {bound v : Int} (start len : Int) (h0 : 0 ≤ v) (h1 : v < bound) :
    (clipSpan bound start len).1 ≤ v ∧ v < (clipSpan bound start len).1 + (clipSpan bound start len).2 ↔
      start ≤ v ∧ v < start + len := by
  simp only [clipSpan]
  split_ifs <;> omega

theorem clipSpan_inside (bound start len : Int) :
    0 ≤ (clipSpan bound start len).1 ∧ (clipSpan bound start len).1 + (clipSpan bound start len).2 ≤ bound := by
  simp only [clipSpan]
  split_ifs <;> omega

/-! ### A run of bits in one byte -/

theorem getLsbD_bitSpan (off k : Nat) {j : Nat} (hj : j < 8) :
    (bitSpan off k).getLsbD j = decide (off ≤ j ∧ j < off + k) := by
  rw [bitSpan, BitVec.getLsbD_ofNat, Nat.testBit_mul_two_pow, Nat.testBit_two_pow_sub_one, Bool.eq_iff_iff]
  simp only [Bool.and_eq_true, decide_eq_true_eq]
  omega

theorem rowBit_eq_bitSpan (y : Int) : rowBit y = bitSpan (y % 8).toNat 1 := by
  refine BitVec.eq_of_toNat_eq ?_
  simp [rowBit, bitSpan, Nat.shiftLeft_eq]

section
variable {x : Int} (h0 : 0 ≤ x) (h1 : x < 128) (col : Color)
include h0 h1

theorem composedTimes_bitSpan {off k : Nat} (hk : off + k ≤ 8) (c : Memory) (p : Int) :
    ComposedTimes col (vLineCover x (p * 8 + off) k) c (compose col c (x + p * 128) (bitSpan off k)) := by
  refine ⟨fun px py hp => ?_, (keepsCanvas_compose ..).2⟩
  rw [pixel_compose h0 h1 hp, vLineCover, getLsbD_bitSpan off k (by omega)]
  by_cases hcov : px = x ∧ p * 8 + off ≤ py ∧ py < p * 8 + off + k
  · rw [if_pos hcov, if_pos (by omega), decide_eq_true (by omega), Color.bitTimes_one]
  · rw [if_neg hcov, Color.bitTimes_zero]
    split
    · rw [decide_eq_false (by omega), Color.bit_false]
    · rfl

/-- The first k rows of a byte. -/
theorem composedTimes_topSpan {k : Nat} (hk : k ≤ 8) (c : Memory) (p : Int) :
    ComposedTimes col (vLineCover x (p * 8) k) c (compose col c (x + p * 128) (bitSpan 0 k)) := by
  have h := composedTimes_bitSpan h0 h1 col (off := 0) (k := k) (by omega) c p
  rwa [Nat.cast_zero, Int.add_zero] at h

/-- One row of a column, as one bit of its byte. -/
theorem composedTimes_rowBit (c : Memory) (y : Int) :
    ComposedTimes col (vLineCover x y 1) c (compose col c (x + y / 8 * 128) (rowBit y)) := by
  have h := composedTimes_bitSpan h0 h1 col (off := (y % 8).toNat) (k := 1) (by omega) c (y / 8)
  rwa [← rowBit_eq_bitSpan, show y / 8 * 8 + ((y % 8).toNat : Int) = y by omega] at h

/-! ### VLINE -/

omit h0 h1 in
/-- A column span followed by the span right below it, or by an empty one. -/
theorem composedTimes_column_append {col : Color} {y z m n l : Int} {c d e : Memory}
    (h : ComposedTimes col (vLineCover x y m) c d) (k : ComposedTimes col (vLineCover x z n) d e)
    (hm : 0 ≤ m) (hn : 0 ≤ n) (hz : n = 0 ∨ z = y + m) (hl : l = m + n) : ComposedTimes col (vLineCover x y l) c e :=
  composedTimes_congr (composedTimes_trans h k) fun px py _ => by
    unfold vLineCover
    split_ifs <;> omega

theorem composedTimes_vLineFull (n : Nat) (p : Int) (c : Memory) :
    ComposedTimes col (vLineCover x (p * 8) (n * 8)) c (vLineFull col x n p c) := by
  induction n generalizing p c with
  | zero => exact composedTimes_of_eq_zero fun px py _ => if_neg (by omega)
  | succ n ih =>
    have hbyte : ComposedTimes col (vLineCover x (p * 8) 8) c (compose col c (x + p * 128) 0xFF) :=
      composedTimes_topSpan h0 h1 col (Nat.le_refl 8) c p
    refine composedTimes_column_append hbyte (ih (p + 1) _) ?_ ?_ ?_ ?_ <;> omega

theorem composedTimes_vLineTail (c : Memory) (p : Int) (n : Nat) :
    ComposedTimes col (vLineCover x (p * 8) n) c (vLineTail col c x p n) := by
  have hfull := composedTimes_vLineFull h0 h1 col (n / 8) p c
  unfold vLineTail
  dsimp only
  split
  · rwa [show ((n / 8 : Nat) : Int) * 8 = n by omega] at hfull
  · have hrest := composedTimes_topSpan h0 h1 col (k := n % 8) (by omega) (vLineFull col x (n / 8) p c)
      (p + (n / 8 : Nat))
    refine composedTimes_column_append hfull hrest ?_ ?_ ?_ ?_ <;> omega

theorem composedTimes_vLineParts (c : Memory) (y : Int) (n : Nat) :
    ComposedTimes col (vLineCover x y n) c (vLineParts col c x y n) := by
  unfold vLineParts
  dsimp only
  split
  · have htail := composedTimes_vLineTail h0 h1 col c (y / 8) n
    rwa [show y / 8 * 8 = y by omega] at htail
  · have hlead := composedTimes_bitSpan h0 h1 col (off := (y % 8).toNat) (k := min (8 - (y % 8).toNat) n) (by omega) c
      (y / 8)
    rw [show y / 8 * 8 + ((y % 8).toNat : Int) = y by omega] at hlead
    refine composedTimes_column_append hlead (composedTimes_vLineTail h0 h1 col _ (y / 8 + 1) _) ?_ ?_ ?_ ?_ <;> omega

end

theorem composedTimes_vLineBody (col : Color) (c : Memory) (x y len : Int) :
    ComposedTimes col (vLineCover x y len) c (vLineBody col c x y len) := by
  unfold vLineBody
  split
  · exact composedTimes_of_eq_zero fun px py hp => if_neg (by rw [inCanvas_iff] at hp; omega)
  · have hclip {px py : Int} (hp : inCanvas px py = true) :
        (clipSpan 64 y len).1 ≤ py ∧ py < (clipSpan 64 y len).1 + (clipSpan 64 y len).2 ↔ y ≤ py ∧ py < y + len := by
      rw [inCanvas_iff] at hp
      exact mem_clipSpan_iff y len (by omega) (by omega)
    dsimp only
    split
    · exact composedTimes_of_eq_zero fun px py hp => if_neg (by have := hclip hp; omega)
    · refine composedTimes_congr (composedTimes_vLineParts (by omega) (by omega) col c _ _) fun px py hp => ?_
      have := hclip hp
      unfold vLineCover
      split_ifs <;> omega

/-! ### SETPIXEL, HLINE, RECT and FILLRECT -/

theorem composedTimes_composePixel (col : Color) (c : Memory) (x y : Int) :
    ComposedTimes col (vLineCover x y 1) c (composePixel col c x y) := by
  unfold composePixel
  split
  · next hin =>
    rw [inCanvas_iff] at hin
    exact composedTimes_rowBit (by omega) (by omega) col c y
  · next hin =>
    rw [inCanvas_iff] at hin
    exact composedTimes_of_eq_zero fun px py hp => if_neg (by rw [inCanvas_iff] at hp; omega)

theorem composedTimes_hLineBody (col : Color) (c : Memory) (x y len : Int) :
    ComposedTimes col (hLineCover x y len) c (hLineBody col c x y len) := by
  unfold hLineBody
  split
  · exact composedTimes_of_eq_zero fun px py hp => if_neg (by rw [inCanvas_iff] at hp; omega)
  · obtain ⟨hlo, hhi⟩ := clipSpan_inside 128 x len
    refine composedTimes_congr (composedTimes_foldl_intRange (key := fun px _ => px)
      (n := fun _ py => if py = y then 1 else 0) (fun c k ha hb => ?_) c) fun px py hp => ?_
    · refine composedTimes_congr (composedTimes_rowBit (by omega) (by omega) col c y) fun px py hp => ?_
      unfold vLineCover
      split_ifs <;> omega
    · rw [inCanvas_iff] at hp
      have := mem_clipSpan_iff (bound := 128) (v := px) x len (by omega) (by omega)
      unfold hLineCover
      split_ifs <;> omega

theorem rectBody_of_malformed {w h : Int} (hwh : w ≤ 0 ∨ h ≤ 0) (col : Color) (c : Memory) (x y : Int) :
    rectBody col c x y w h = c := if_pos hwh

/-- The edges of RECT one after the other; malformed geometry has none. -/
theorem composedTimes_rectBody (col : Color) (c : Memory) (x y w h : Int) :
    ComposedTimes col (fun px py => if 0 < w ∧ 0 < h then edgeCover x y w h px py else 0) c
      (rectBody col c x y w h) := by
  by_cases hwh : 0 < w ∧ 0 < h
  · have htop := composedTimes_hLineBody col c x y w
    have hleft := composedTimes_trans htop (composedTimes_vLineBody col _ x y h)
    have hright := composedTimes_trans hleft (composedTimes_vLineBody col _ (x + w - 1) y h)
    have hbottom := composedTimes_trans hright (composedTimes_hLineBody col _ x (y + h - 1) w)
    rw [rectBody, if_neg (by omega)]
    exact composedTimes_congr hbottom fun px py _ => (if_pos hwh).symm
  · rw [rectBody_of_malformed (by omega)]
    exact composedTimes_of_eq_zero fun px py _ => if_neg hwh

theorem composedTimes_fillRectBody (col : Color) (c : Memory) (x y w h : Int) :
    ComposedTimes col (fun px py => if x ≤ px ∧ px < x + w ∧ y ≤ py ∧ py < y + h then 1 else 0) c
      (fillRectBody col c x y w h) := by
  unfold fillRectBody
  split
  · exact composedTimes_of_eq_zero fun px py _ => if_neg (by omega)
  · refine composedTimes_congr (composedTimes_foldl_intRange (key := fun _ py => py)
      (n := fun px _ => if x ≤ px ∧ px < x + w then 1 else 0) (fun c r _ _ => ?_) c) fun px py _ => ?_
    · refine composedTimes_congr (composedTimes_hLineBody ..) fun px py _ => ?_
      unfold hLineCover
      split_ifs <;> omega
    · split_ifs <;> omega

/-! ### The unit steps -/

/-- A figure command writes the canvas and BUSY only, and composes each pixel as often as its figure covers it. -/
theorem exec_figure {i : Instr} (hi : namesFigure i) (s : State) :
    ∃ c : Memory, exec i s = .next { s with canvas := c, busy := false } ∧
      ComposedTimes s.latched.color (cover i s.latched) s.canvas c := by
  rcases hi with rfl | rfl | rfl | rfl | rfl
  · refine ⟨_, rfl, composedTimes_congr (composedTimes_composePixel ..) fun px py _ => ?_⟩
    simp only [vLineCover, cover]
    split_ifs <;> omega
  · exact ⟨_, rfl, composedTimes_hLineBody ..⟩
  · exact ⟨_, rfl, composedTimes_vLineBody ..⟩
  · exact ⟨_, rfl, composedTimes_rectBody ..⟩
  · exact ⟨_, rfl, composedTimes_fillRectBody ..⟩

/-- A figure command that covers no pixel twice composes its figure once. -/
theorem exec_figure_once {i : Instr} (hi : namesFigure i) (s : State) {fig : Int → Int → Prop}
    (h1 : ∀ px py : Int, fig px py → cover i s.latched px py = 1)
    (h0 : ∀ px py : Int, ¬ fig px py → cover i s.latched px py = 0) :
    ∃ c : Memory, exec i s = .next { s with canvas := c, busy := false } ∧
      composed s.latched.color fig s.canvas c := by
  obtain ⟨c, he, h⟩ := exec_figure hi s
  exact ⟨c, he, composed_of_composedTimes h h1 h0⟩

/-! ### The obligations -/

/-- Settles O23: the canvas of CLEAR lists nothing. -/
theorem clearZeroesTheCanvas : Obligations.ClearZeroesTheCanvas :=
  ⟨rfl, fun _ => ⟨[], rfl, Memory.read_nil⟩⟩

/-- Settles O24. -/
theorem setPixelComposesOnePixel : Obligations.SetPixelComposesOnePixel :=
  ⟨rfl, fun s => exec_figure_once (.inl rfl) s (fun _ _ h => if_pos h) (fun _ _ h => if_neg h)⟩

/-- Settles O25: the two steps together toggle each pixel an even number of times. -/
theorem invertSetPixelTwiceRestores : Obligations.InvertSetPixelTwiceRestores := by
  intro s hcol
  obtain ⟨c, hs, hc⟩ := exec_figure (.inl rfl : namesFigure .setpixel) s
  obtain ⟨d, ht, (hd : ComposedTimes _ (cover .setpixel s.latched) c d)⟩ :=
    exec_figure (.inl rfl : namesFigure .setpixel) { s with canvas := c, busy := false }
  obtain ⟨hpix, hout⟩ := composedTimes_trans hc hd
  refine ⟨_, _, hs, ht, read_eq_of_pixel_eq (fun px py hp => (hpix px py hp).trans ?_) hout⟩
  rw [hcol, Color.bitTimes_invert, decide_eq_false (by omega), Bool.xor_false]

/-- Settles O26. -/
theorem hLineComposesItsSpan : Obligations.HLineComposesItsSpan :=
  ⟨rfl, fun s => exec_figure_once (.inr (.inl rfl)) s (fun _ _ h => if_pos h) (fun _ _ h => if_neg h)⟩

/-- Settles O27. -/
theorem vLineComposesItsSpan : Obligations.VLineComposesItsSpan :=
  ⟨rfl, fun s => exec_figure_once (.inr (.inr (.inl rfl))) s (fun _ _ h => if_pos h) (fun _ _ h => if_neg h)⟩

/-- Settles O28: on in-canvas pixels the loop over single rows composes the same column span once. -/
theorem vLineEqualsPixelByPixel : Obligations.VLineEqualsPixelByPixel := by
  intro s _ _
  refine ⟨_, rfl, read_eq_of_composedTimes (composedTimes_vLineBody ..) ?_⟩
  refine composedTimes_congr (composedTimes_foldl_intRange (key := fun _ py => py)
    (n := fun px _ => if px = s.latched.s16 0 then 1 else 0) (fun c r _ _ => ?_) s.canvas) fun px py hp => ?_
  · refine composedTimes_congr (composedTimes_composePixel ..) fun px py _ => ?_
    unfold vLineCover
    split_ifs <;> omega
  · rw [inCanvas_iff] at hp
    unfold vLineCover
    split_ifs <;> omega

/-- Settles O29: the four edges of RECT add up. -/
theorem rectComposesFourEdges : Obligations.RectComposesFourEdges := by
  refine ⟨rfl, fun s => ⟨_, rfl, fun h => rectBody_of_malformed h .., fun hw hh => ?_⟩⟩
  obtain ⟨hpix, hout⟩ := composedTimes_congr (composedTimes_rectBody ..) fun px py _ => if_pos ⟨hw, hh⟩
  refine ⟨fun px py hp => (hpix px py hp).trans ?_, hout⟩
  cases s.latched.color with
  | set => exact Color.bitTimes_set ..
  | clear => exact Color.bitTimes_clear ..
  | invert => exact Color.bitTimes_invert ..

/-- Settles O30. -/
theorem fillRectComposesItsArea : Obligations.FillRectComposesItsArea :=
  ⟨rfl, fun s => exec_figure_once (.inr (.inr (.inr (.inr rfl)))) s (fun _ _ h => if_pos h) (fun _ _ h => if_neg h)⟩

/-- Settles O31: every law follows from the number of times the figure covers a pixel. -/
theorem clippingLaws : Obligations.ClippingLaws := by
  intro i s hi
  obtain ⟨c, he, hpix, hout⟩ := exec_figure hi s
  have uncovered {px py : Int} (hp : inCanvas px py = true) (hn : cover i s.latched px py = 0) :
      pixel c px py = pixel s.canvas px py := by rw [hpix px py hp, hn, Color.bitTimes_zero]
  refine ⟨c, he, fun px py => uncovered, hout,
    fun hn => read_eq_of_pixel_eq (fun px py hp => uncovered hp (hn px py hp)) hout,
    fun hcol px py hp hon => ?_, fun hcol px py hp hoff => ?_, fun hcol px py hp => ?_⟩
  · rw [hpix px py hp, hcol, Color.bitTimes_set, hon, Bool.true_or]
  · rw [hpix px py hp, hcol, Color.bitTimes_clear, hoff, Bool.false_and]
  · rw [hpix px py hp, hcol, Color.bitTimes_invert]

end Sys2Proof.Machine
end

section
/-!
SUPPORT. The blit commands (spec/42_blit.md): Compose and the shifts by lanes (R147), drawings as disjoint unions of
figures, one source byte of BLIT as two masks on two pages, and the pixels of BLIT and BLITROW.
-/

namespace Sys2Proof.Machine

/-! ### Lanes -/

theorem getLsbD_byte_shiftLeft (b : Byte) (s : Nat) {k : Nat} (hk : k < 8) :
    (b <<< s).getLsbD k = if s ≤ k then b.getLsbD (k - s) else false := by
  rw [BitVec.getLsbD_shiftLeft]
  split
  · next h => simp [hk, h]
  · next h => simp [show k < s by omega]

theorem getLsbD_byte_shiftRight (b : Byte) (s k : Nat) :
    (b >>> s).getLsbD k = if k + s < 8 then b.getLsbD (k + s) else false := by
  rw [BitVec.getLsbD_ushiftRight, Nat.add_comm]
  split
  · rfl
  · next h => exact BitVec.getLsbD_of_ge _ _ (by omega)

/-- Settles O33. -/
theorem lanesAreIndependent : Obligations.LanesAreIndependent := by
  refine ⟨fun col c i m k h0 h1 hk => ?_,
    fun b s k hk => ⟨getLsbD_byte_shiftLeft b s hk, getLsbD_byte_shiftRight b s k⟩⟩
  rw [read_compose_same h0 h1, getLsbD_apply col _ m hk]
  cases col <;> rfl

/-! ### Figures -/

section
variable {col : Color} {fig fig' : Int → Int → Prop} {c d e : Memory}

/-- Only the in-canvas pixels of a figure count. -/
theorem composed_congr (h : composed col fig c d)
    (hfig : ∀ px py : Int, inCanvas px py = true → (fig px py ↔ fig' px py)) : composed col fig' c d := by
  obtain ⟨hon, hoff, hout⟩ := h
  exact ⟨fun px py hp hf => hon px py hp ((hfig px py hp).mpr hf),
    fun px py hp hf => hoff px py hp fun h => hf ((hfig px py hp).mp h), hout⟩

/-- A figure with no pixel in the canvas composes nothing. -/
theorem composed_of_outside (h : ∀ px py : Int, inCanvas px py = true → ¬ fig px py) : composed col fig c c :=
  ⟨fun px py hp hf => absurd hf (h px py hp), fun _ _ _ _ => rfl, fun _ _ => rfl⟩

/-- A figure followed by a disjoint one composes the pixels of both. -/
theorem composed_append (h : composed col fig c d) (h' : composed col fig' d e)
    (hdisj : ∀ px py : Int, fig px py → ¬ fig' px py) : composed col (fun px py => fig px py ∨ fig' px py) c e := by
  obtain ⟨hon, hoff, hout⟩ := h
  obtain ⟨hon', hoff', hout'⟩ := h'
  refine ⟨fun px py hp hf => ?_, fun px py hp hf => ?_, fun a ha => (hout' a ha).trans (hout a ha)⟩
  · rcases hf with hf | hf
    · rw [hoff' px py hp (hdisj px py hf), hon px py hp hf]
    · rw [hon' px py hp hf, hoff px py hp fun h => hdisj px py h hf]
  · obtain ⟨hf, hf'⟩ := not_or.mp hf
    rw [hoff' px py hp hf', hoff px py hp hf]

end

/-- A loop whose steps compose disjoint figures composes the pixels of all of them. -/
theorem composed_foldl_range {col : Color} {f : Memory → Nat → Memory} {fig : Nat → Int → Int → Prop}
    (hf : ∀ (c : Memory) (i : Nat), composed col (fig i) c (f c i))
    (hdisj : ∀ (i j : Nat) (px py : Int), fig i px py → fig j px py → i = j) (n : Nat) (c : Memory) :
    composed col (fun px py => ∃ i < n, fig i px py) c ((List.range n).foldl f c) := by
  induction n with
  | zero => exact composed_of_outside fun px py _ ⟨i, hi, _⟩ => absurd hi (Nat.not_lt_zero i)
  | succ n ih =>
    rw [List.range_succ, List.foldl_append]
    have hnew : ∀ px py : Int, (∃ i < n, fig i px py) → ¬ fig n px py :=
      fun px py ⟨i, hi, h⟩ hn => absurd (hdisj i n px py h hn) (by omega)
    refine composed_congr (composed_append ih (hf _ n) hnew) fun px py _ => ?_
    rw [Nat.exists_lt_succ_right]

/-- A quotient and a remainder by the same divisor name one index, whatever the divisor. -/
theorem eq_of_ediv_eq_of_emod_eq {i j : Nat} {r : Int} (hd : (i : Int) / r = (j : Int) / r)
    (hm : (i : Int) % r = (j : Int) % r) : i = j := by
  have h : (i : Int) = j := by rw [← Int.emod_add_mul_ediv i r, ← Int.emod_add_mul_ediv j r, hd, hm]
  exact_mod_cast h

/-! ### One source byte of BLIT -/

/-- Pixel (px, py) is a 1 bit of byte b standing in column x with its bit 0 in row y (R142). -/
def onByte (b : Byte) (x y px py : Int) : Prop := px = x ∧ ∃ k : Nat, k < 8 ∧ py = y + k ∧ b.getLsbD k = true

/-- The pixels of column x and page p under a mask: composed by one guarded write of R141. -/
theorem composed_pageByte {x : Int} (h0 : 0 ≤ x) (h1 : x < 128) (col : Color) (c : Memory) (p : Int) (m : Byte) :
    composed col (fun px py => px = x ∧ py / 8 = p ∧ m.getLsbD (py % 8).toNat = true) c
      (if 0 ≤ p ∧ p < 8 then compose col c (x + p * 128) m else c) := by
  split
  · refine ⟨fun px py hp ⟨hx, hy, hm⟩ => ?_, fun px py hp hf => ?_, (keepsCanvas_compose ..).2⟩
    · rw [pixel_compose h0 h1 hp, if_pos ⟨hx, hy⟩, hm]
    · rw [pixel_compose h0 h1 hp]
      split
      · next hxy => rw [Bool.eq_false_iff.mpr fun hm => hf ⟨hxy.1, hxy.2, hm⟩, Color.bit_false]
      · rfl
  · next hp => exact composed_of_outside fun px py hin hf => by rw [inCanvas_iff] at hin; omega

/-- The bit of a byte at row offset yOff of page pg, by pages: the primary mask has it in page pg, the spill mask in
the page below. -/
theorem onByte_iff_pages {yOff : Nat} (hy : yOff < 8) (b : Byte) (x pg px py : Int) :
    onByte b x (pg * 8 + yOff) px py ↔
      (px = x ∧ py / 8 = pg ∧ (b <<< yOff).getLsbD (py % 8).toNat = true) ∨
        (px = x ∧ py / 8 = pg + 1 ∧ (b >>> (8 - yOff)).getLsbD (py % 8).toNat = true) := by
  rw [getLsbD_byte_shiftLeft b yOff (by omega), getLsbD_byte_shiftRight]
  simp only [Bool.if_false_right, Bool.and_eq_true, decide_eq_true_eq]
  constructor
  · rintro ⟨hx, k, hk, hrow, hb⟩
    by_cases hpage : yOff + k < 8
    · exact .inl ⟨hx, by omega, by omega, by rwa [show (py % 8).toNat - yOff = k by omega]⟩
    · exact .inr ⟨hx, by omega, by omega, by rwa [show (py % 8).toNat + (8 - yOff) = k by omega]⟩
  · rintro (⟨hx, hpage, hle, hb⟩ | ⟨hx, hpage, hlt, hb⟩)
    · exact ⟨hx, _, by omega, by omega, hb⟩
    · exact ⟨hx, _, hlt, by omega, hb⟩

/-- The two writes of one source byte compose its 1 bits. A byte that starts on a page has no spill write, and its spill
mask would be empty. -/
theorem composed_blitByte {yOff : Nat} (hy : yOff < 8) (col : Color) (c : Memory) (x pg : Int) (b : Byte) :
    composed col (onByte b x (pg * 8 + yOff)) c (blitByte col yOff c x pg b) := by
  unfold blitByte
  split
  · next hx =>
    have hprimary := composed_pageByte hx.1 hx.2 col c pg (b <<< yOff)
    by_cases h0 : yOff = 0
    · rw [if_neg fun h => h.1 h0]
      refine composed_congr hprimary fun px py _ => ?_
      rw [onByte_iff_pages hy, getLsbD_byte_shiftRight, if_neg (by omega)]
      simp
    · simp only [ne_eq, h0, not_false_eq_true, true_and]
      have hspill := fun d => composed_pageByte hx.1 hx.2 col d (pg + 1) (b >>> (8 - yOff))
      exact composed_congr (composed_append hprimary (hspill _) fun px py hf hf' => by omega)
        fun px py _ => (onByte_iff_pages hy b x pg px py).symm
  · next hx => exact composed_of_outside fun px py hp hf => hx (by rw [inCanvas_iff] at hp; rw [← hf.1]; omega)

/-! ### The loops -/

/-- No pixel stands in two bytes of a BLIT. -/
theorem onByte_inj {b b' : Byte} {x y r px py : Int} {i j : Nat}
    (h : onByte b (x + (i : Int) / r) (y + 8 * ((i : Int) % r)) px py)
    (h' : onByte b' (x + (j : Int) / r) (y + 8 * ((j : Int) % r)) px py) : i = j := by
  obtain ⟨hx, k, hk, hy, -⟩ := h
  obtain ⟨hx', k', hk', hy', -⟩ := h'
  exact eq_of_ediv_eq_of_emod_eq (r := r) (by omega) (by omega)

/-- The loop of BLIT, over natural indices. -/
theorem blitBody_eq_foldl_nat (col : Color) (src c : Memory) (x y rh base : Int) (cnt : Nat) :
    blitBody col src c x y rh base cnt = (List.range cnt).foldl
      (fun c (i : Nat) => blitByte col (y % 8).toNat c (x + (i : Int) / rh) (y / 8 + (i : Int) % rh)
        (srcRead src (base + i))) c := by
  simp only [blitBody, List.bind_eq_flatMap, List.pure_def, ← List.map_eq_flatMap, List.foldl_map]

theorem composed_blitBody (col : Color) (src c : Memory) (x y rh base : Int) (cnt : Nat) :
    composed col (onBlit src x y rh base cnt) c (blitBody col src c x y rh base cnt) := by
  have hbyte (c : Memory) (i : Nat) := composed_blitByte (yOff := (y % 8).toNat) (by omega) col c (x + (i : Int) / rh)
    (y / 8 + (i : Int) % rh) (srcRead src (base + i))
  have hrow (i : Nat) : (y / 8 + (i : Int) % rh) * 8 + ((y % 8).toNat : Int) = y + 8 * ((i : Int) % rh) := by omega
  simp only [hrow] at hbyte
  rw [blitBody_eq_foldl_nat]
  refine composed_congr (fig' := onBlit src x y rh base cnt)
    (composed_foldl_range hbyte (fun i j px py => onByte_inj) cnt c) fun px py _ => ?_
  constructor
  · rintro ⟨i, hi, hx, k, hk, hy, hb⟩
    exact ⟨i, k, hi, hk, hx, hy, hb⟩
  · rintro ⟨i, k, hi, hk, hx, hy, hb⟩
    exact ⟨i, hi, hx, k, hk, hy, hb⟩

/-- One pixel of BLITROW. -/
theorem composed_streamPixel (col : Color) (c : Memory) (x y : Int) (bit : Bool) :
    composed col (fun px py => px = x ∧ py = y ∧ bit = true) c (if bit then composePixel col c x y else c) := by
  cases bit with
  | false => exact composed_of_outside fun px py _ hf => by simp at hf
  | true =>
    refine composed_of_composedTimes (composedTimes_composePixel col c x y) (fun px py hf => ?_) fun px py hf => ?_
    · exact if_pos (by omega)
    · exact if_neg fun h => hf ⟨h.1, by omega, rfl⟩

theorem composed_blitRowBody (col : Color) (src c : Memory) (x y w base : Int) (n : Nat) :
    composed col (onBlitRow src x y w base n) c (blitRowBody col src c x y w base n) :=
  composed_foldl_range (fun c k => composed_streamPixel col c _ _ (streamBit src base k))
    (fun i j px py hi hj => eq_of_ediv_eq_of_emod_eq (r := w) (by omega) (by omega)) n c

/-! ### The unit steps -/

theorem srcOK_iff {base : Int} (h : 0 ≤ base) (size : Nat) (n : Int) :
    srcOK size base n = true ↔ n = 0 ∨ base + n ≤ size := by
  simp [srcOK, h]

theorem Latched.u16_nonneg (l : Latched) (n : Fin 8) : 0 ≤ l.u16 n := Int.natCast_nonneg _

theorem Latched.srcBase_nonneg (l : Latched) : 0 ≤ l.srcBase := by
  have h4 := l.u16_nonneg 4
  have h5 := l.u16_nonneg 5
  unfold Latched.srcBase
  omega

@[simp] theorem raiseFault_canvas (c : Cause) (s : State) : (raiseFault c s).canvas = s.canvas := by rw [raiseFault_frame]

section
variable {s : State}

theorem execBlit_of_malformed (h : s.latched.s16 2 < 0 ∨ s.latched.s16 3 ≤ 0) :
    execBlit s = .next (endCommand s) := if_pos h

theorem execBlitrow_of_malformed (h : s.latched.s16 2 ≤ 0 ∨ s.latched.s16 3 ≤ 0) :
    execBlitrow s = .next (endCommand s) := if_pos h

/-- BLIT of well-formed geometry: by its source-range check (R141). -/
theorem execBlit_of_geometry (hw : 0 ≤ s.latched.s16 2) (hh : 0 < s.latched.s16 3) :
    execBlit s =
      if s.latched.u16 7 = 0 ∨ s.latched.srcBase + s.latched.u16 6 + s.latched.u16 7 ≤ s.cfg.srcSize then
        .next (finishDraw s (blitBody s.latched.color s.src s.canvas (s.latched.s16 0) (s.latched.s16 1)
          (ceil8 (s.latched.s16 3)) (s.latched.srcBase + s.latched.u16 6) (s.latched.u16 7).toNat))
      else .next (raiseFault .sourceRange s) := by
  have hbase := Int.add_nonneg s.latched.srcBase_nonneg (s.latched.u16_nonneg 6)
  simp only [execBlit, if_neg (show ¬(s.latched.s16 2 < 0 ∨ s.latched.s16 3 ≤ 0) by omega), srcOK_iff hbase]

/-- BLITROW of well-formed geometry: by its source-range check (R145). -/
theorem execBlitrow_of_geometry (hw : 0 < s.latched.s16 2) (hh : 0 < s.latched.s16 3) :
    execBlitrow s =
      if s.latched.srcBase + ceil8 (s.latched.s16 2 * s.latched.s16 3) ≤ s.cfg.srcSize then
        .next (finishDraw s (blitRowBody s.latched.color s.src s.canvas (s.latched.s16 0) (s.latched.s16 1)
          (s.latched.s16 2) s.latched.srcBase (s.latched.s16 2 * s.latched.s16 3).toNat))
      else .next (raiseFault .sourceRange s) := by
  have hcount : ceil8 (s.latched.s16 2 * s.latched.s16 3) ≠ 0 := by
    have := Int.mul_pos hw hh
    unfold ceil8
    omega
  simp only [execBlitrow, if_neg (show ¬(s.latched.s16 2 ≤ 0 ∨ s.latched.s16 3 ≤ 0) by omega),
    srcOK_iff s.latched.srcBase_nonneg, hcount, false_or]

/-- The pixels of the BLIT with latched operands l (R142). -/
def blitFigure (src : Memory) (l : Latched) : Int → Int → Prop :=
  onBlit src (l.s16 0) (l.s16 1) (ceil8 (l.s16 3)) (l.srcBase + l.u16 6) (l.u16 7).toNat

/-- BLIT of well-formed geometry whose source bytes are all there composes its set bits. -/
theorem exec_blit_composes (hw : 0 ≤ s.latched.s16 2) (hh : 0 < s.latched.s16 3)
    (hsrc : s.latched.u16 7 = 0 ∨ s.latched.srcBase + s.latched.u16 6 + s.latched.u16 7 ≤ s.cfg.srcSize) :
    ∃ c : Memory, exec .blit s = .next { s with canvas := c, busy := false } ∧
      composed s.latched.color (blitFigure s.src s.latched) s.canvas c :=
  ⟨_, (execBlit_of_geometry hw hh).trans (if_pos hsrc), composed_blitBody ..⟩

end

/-- Settles O35. -/
theorem blitComposesItsSetBits : Obligations.BlitComposesItsSetBits := by
  refine ⟨rfl, fun s => ⟨execBlit_of_malformed, fun hw hh hcnt hsrc => ⟨?_, raiseFault_canvas ..⟩, exec_blit_composes⟩⟩
  exact (execBlit_of_geometry hw hh).trans (if_neg (not_or.mpr ⟨hcnt, Int.not_le.mpr hsrc⟩))

/-- Settles O37. -/
theorem blitRowComposesItsSetBits : Obligations.BlitRowComposesItsSetBits := by
  refine ⟨rfl, fun s => ⟨execBlitrow_of_malformed, fun hw hh hsrc => ⟨?_, raiseFault_canvas ..⟩, fun hw hh hsrc => ?_⟩⟩
  · exact (execBlitrow_of_geometry hw hh).trans (if_neg (Int.not_le.mpr hsrc))
  · exact ⟨_, (execBlitrow_of_geometry hw hh).trans (if_pos hsrc), composed_blitRowBody ..⟩

/-! ### The glyph scenario -/

theorem pixel_of_zero {c : Memory} (h : ∀ a : Nat, Memory.read c a = 0x00) (px py : Int) : pixel c px py = false := by
  simp [pixel, h]

/-- A figure composed under SET and then under INVERT on a zero canvas is gone. -/
theorem read_of_set_then_invert {fig : Int → Int → Prop} {c d e : Memory} (hzero : ∀ a : Nat, Memory.read c a = 0x00)
    (hset : composed .set fig c d) (hinv : composed .invert fig d e) (a : Nat) : Memory.read e a = 0x00 := by
  obtain ⟨hon, hoff, hout⟩ := hset
  obtain ⟨hon', hoff', hout'⟩ := hinv
  rw [← hzero a]
  refine read_eq_of_pixel_eq (fun px py hp => ?_) (fun a ha => (hout' a ha).trans (hout a ha)) a
  by_cases hf : fig px py
  · rw [hon' px py hp hf, hon px py hp hf, pixel_of_zero hzero]
    rfl
  · rw [hoff' px py hp hf, hoff px py hp hf]

/-- Settles O36: both steps compose the same figure, for the colour has no part in it. -/
theorem blitSetThenInvertClears : Obligations.BlitSetThenInvertClears := by
  intro s hw hh hsrc hcol hzero
  obtain ⟨c, hs, hc⟩ := exec_blit_composes hw hh hsrc
  obtain ⟨d, ht, (hd : composed .invert (blitFigure s.src s.latched) c d)⟩ :=
    exec_blit_composes (s := { s with canvas := c, busy := false, latched := ⟨s.latched.arg, .invert⟩ }) hw hh hsrc
  rw [hcol] at hc
  exact ⟨_, _, hs, ht, read_of_set_then_invert hzero hc hd⟩

end Sys2Proof.Machine
end

section
/-!
SUPPORT. SYNC (spec/43_sync.md): its acceptance, what its unit step writes, and its scan, which after each page holds
the smallest box of what changed so far.
-/

namespace Sys2Proof.Machine

/-! ### Acceptance -/

/-- A CMD write of SYNC's word that command issue lets through is its acceptance. -/
theorem regWrite_sync {s : State} (hf : s.fault = false) (hb : s.busy = false) (hr : s.ready = true) :
    regWrite s 0x0 0x000A = accept .sync s :=
  regWrite_cmd_accepted (decode?_encode .sync) hf hb (.inl hr)

/-- Settles O39. -/
theorem syncAcceptanceStartsItsFirstPhase : Obligations.SyncAcceptanceStartsItsFirstPhase := by
  refine ⟨rfl, fun s hf hb hr => ?_⟩
  have hacc : hostMove (.write 0x0 0x000A) s = .next (accept .sync s) := congrArg _ (regWrite_sync hf hb hr)
  rw [hacc]
  cases hd : s.cfg.doubleBuffer with
  | true => exact congrArg _ (accept_sync_buffered hd)
  | false => exact congrArg _ (accept_sync_unbuffered hd)

/-! ### The unit step -/

theorem exec_sync_scan {s : State} (hp : s.seq.phase = .scan) : exec .sync s = .next (scanStep s) :=
  congrArg _ (if_pos hp)

theorem exec_sync_transmit {s : State} (hp : s.seq.phase ≠ .scan) : exec .sync s = .next (txStep s) :=
  congrArg _ (if_neg hp)

/-- Settles O47: neither phase's step writes C, COLOR or ARG. -/
theorem syncNeverChangesTheCanvas : Obligations.SyncNeverChangesTheCanvas := by
  intro s
  by_cases hp : s.seq.phase = .scan
  · refine ⟨_, exec_sync_scan hp, ?_⟩
    rw [scanStep_frame]
  · refine ⟨_, exec_sync_transmit hp, ?_⟩
    rw [txStep_frame]

/-! ### The scan step -/

/-- A scan step copies its page, whether or not the scan ends. -/
theorem scanStep_shadow (s : State) : (scanStep s).shadow = (scanned s).shadow := by
  rw [scanStep_eq]
  split
  · rcases scanEnd_cases (scanned s) with ⟨-, h⟩ | ⟨-, h⟩ <;> rw [h]
  · rfl

/-- The end of the scan writes no field of SEQ but the phase. -/
theorem scanStep_seq (s : State) : (scanStep s).seq = { (scanned s).seq with phase := (scanStep s).seq.phase } := by
  rw [scanStep_eq]
  split
  · rcases scanEnd_cases (scanned s) with ⟨-, h⟩ | ⟨-, h⟩ <;> rw [h]
  · rfl

theorem scanStep_of_not_last {s : State} (hp : s.seq.scanPage + 1 ≠ 8) : scanStep s = scanned s := by
  rw [scanStep_eq, if_neg hp]

theorem scanStep_of_last {s : State} (hp : s.seq.scanPage + 1 = 8) : scanStep s = scanEnd (scanned s) := by
  rw [scanStep_eq, if_pos hp]

theorem scanned_phase (s : State) : (scanned s).seq.phase = s.seq.phase := by
  obtain ⟨-, hphase, -⟩ := boxGrows_scanPage s.canvas s.shadow s.seq s.seq.scanPage
  exact hphase

theorem scanned_txPage (s : State) : (scanned s).seq.txPage = s.seq.txPage := by
  obtain ⟨-, -, -, htx⟩ := boxGrows_scanPage s.canvas s.shadow s.seq s.seq.scanPage
  exact htx

theorem boxGrows_scanned (s : State) :
    boxGrows s.seq (scanned s).seq s.seq.scanPage (differsAt s.canvas s.shadow s.seq.scanPage) := by
  obtain ⟨hgrow, -⟩ := boxGrows_scanPage s.canvas s.shadow s.seq s.seq.scanPage
  exact hgrow

theorem read_scanned_shadow (s : State) (a : Nat) :
    Memory.read (scanned s).shadow a =
      if a / 128 = s.seq.scanPage then Memory.read s.canvas a else Memory.read s.shadow a :=
  read_scanPage ..

/-- Settles O40: what every page's step has in common is what `scanned` does; the page says whether the scan ends. -/
theorem scanStepCopiesItsPage : Obligations.ScanStepCopiesItsPage := by
  intro s hscan hlt
  have hphase : (scanned s).seq.phase = .scan := (scanned_phase s).trans hscan
  refine ⟨scanStep s, exec_sync_scan hscan, scanStep_frame s, fun a ha => ?_, fun a ha => ?_, ?_, ?_, ?_,
    fun hp => ?_, fun hp hfound => ?_, fun hp hfound => ?_⟩
  · rw [scanStep_shadow, read_scanned_shadow, if_pos ha]
  · rw [scanStep_shadow, read_scanned_shadow, if_neg ha]
  · rw [scanStep_seq]
    rfl
  · rw [scanStep_seq]
    exact scanned_txPage s
  · rw [scanStep_seq]
    exact boxGrows_scanned s
  · rw [scanStep_of_not_last (by omega)]
    exact ⟨hphase, rfl, rfl, rfl, rfl⟩
  · rw [scanStep_of_last (by omega)] at hfound ⊢
    rcases scanEnd_cases (scanned s) with ⟨-, he⟩ | ⟨hyes, he⟩ <;> rw [he] at hfound ⊢
    · exact ⟨hphase, rfl, rfl, rfl, rfl⟩
    · exact absurd (hyes.symm.trans hfound) (by decide)
  · rw [scanStep_of_last (by omega)] at hfound ⊢
    rcases scanEnd_cases (scanned s) with ⟨hno, he⟩ | ⟨-, he⟩ <;> rw [he] at hfound ⊢
    · exact absurd (hno.symm.trans hfound) (by decide)
    · exact ⟨rfl, rfl, rfl, rfl, rfl⟩

/-! ### The eight scan steps -/

/-- No host turn is to come, and the unit is in a SYNC. -/
def inSync (s : State) : Prop := s.turns = [] ∧ s.busy = true ∧ s.fault = false ∧ s.current = .sync

theorem step_inSync {s : State} (h : inSync s) : step s = exec .sync s := by
  obtain ⟨ht, hb, hf, hc⟩ := h
  simp [step, ht, unitTurn, unitEnabled, hb, hf, hc]

/-- The running box holds every address of D, and each of its four sides is touched by one of them; with nothing found
there is none. -/
def smallestBox (q : Seq) (D : Nat → Prop) : Prop :=
  (q.found = false → ∀ a, ¬ D a) ∧
  (q.found = true →
    (∀ a, D a → q.minCol ≤ a % 128 ∧ a % 128 ≤ q.maxCol ∧ q.minPage ≤ a / 128 ∧ a / 128 ≤ q.maxPage) ∧
    (∃ a, D a ∧ a % 128 = q.minCol) ∧ (∃ a, D a ∧ a % 128 = q.maxCol) ∧
    (∃ a, D a ∧ a / 128 = q.minPage) ∧ ∃ a, D a ∧ a / 128 = q.maxPage)

/-- `smallestBox` looks at the running box only through what was found and the four sides. -/
theorem smallestBox_congr {q r : Seq} {D E : Nat → Prop} (h : smallestBox q D)
    (hr : r.found = q.found ∧ r.minCol = q.minCol ∧ r.maxCol = q.maxCol ∧ r.minPage = q.minPage ∧ r.maxPage = q.maxPage)
    (hDE : ∀ a, D a ↔ E a) : smallestBox r E := by
  obtain rfl : D = E := funext fun a => propext (hDE a)
  obtain ⟨hfound, hminCol, hmaxCol, hminPage, hmaxPage⟩ := hr
  unfold smallestBox
  rwa [hfound, hminCol, hmaxCol, hminPage, hmaxPage]

/-- The smallest box of the addresses D, all on pages before p, widened to the columns F of page p is the smallest
box of the addresses E of both. -/
theorem smallestBox_of_boxGrows {q r : Seq} {p : Nat} {D E F : Nat → Prop} (hq : smallestBox q D)
    (hgrow : boxGrows q r p F) (hold : ∀ a, D a → E a ∧ a / 128 < p)
    (hnew : ∀ c, F c → ∃ a, E a ∧ a % 128 = c ∧ a / 128 = p) (hE : ∀ a, E a → D a ∨ a / 128 = p ∧ F (a % 128)) :
    smallestBox r E := by
  obtain ⟨hstays, hwidens⟩ := hgrow
  by_cases hF : ∃ c, F c
  · obtain ⟨hfound, hcols, hmin, hmax, hkeep, hfirst⟩ := hwidens hF
    obtain ⟨c, hc⟩ := hF
    obtain ⟨d, hd, -, hdp⟩ := hnew c hc
    obtain ⟨hnone, hbox⟩ := hq
    have newCol {m : Nat} (h : F m) : ∃ a, E a ∧ a % 128 = m := (hnew m h).imp fun a ⟨ha, hcol, _⟩ => ⟨ha, hcol⟩
    have oldCol {m : Nat} (h : ∃ a, D a ∧ a % 128 = m) : ∃ a, E a ∧ a % 128 = m :=
      h.imp fun a ⟨ha, hcol⟩ => ⟨(hold a ha).1, hcol⟩
    refine ⟨fun h => absurd (hfound.symm.trans h) (by decide), fun _ => ?_⟩
    cases hqf : q.found with
    | false =>
      obtain ⟨hp, hp'⟩ := hfirst hqf
      refine ⟨fun a ha => ?_, newCol ?_, newCol ?_, ⟨d, hd, by omega⟩, ⟨d, hd, by omega⟩⟩
      · obtain ⟨hap, hac⟩ := (hE a ha).resolve_left (hnone hqf a)
        have := hcols _ hac
        omega
      · exact hmin.resolve_right (by simp [hqf])
      · exact hmax.resolve_right (by simp [hqf])
    | true =>
      obtain ⟨hin, hminCol, hmaxCol, ⟨m, hm, hmp⟩, ⟨n, hn, hnp⟩⟩ := hbox hqf
      obtain ⟨hle, hge, hp, hp'⟩ := hkeep hqf
      obtain ⟨hmE, hmlt⟩ := hold m hm
      obtain ⟨-, hnlt⟩ := hold n hn
      refine ⟨fun a ha => ?_, ?_, ?_, ⟨m, hmE, by omega⟩, ⟨d, hd, by omega⟩⟩
      · rcases hE a ha with haD | ⟨hap, hac⟩
        · have := hin a haD
          omega
        · have := hcols _ hac
          omega
      · rcases hmin with hcol | ⟨-, he⟩
        · exact newCol hcol
        · exact he ▸ oldCol hminCol
      · rcases hmax with hcol | ⟨-, he⟩
        · exact newCol hcol
        · exact he ▸ oldCol hmaxCol
  · refine smallestBox_congr hq (hstays fun c hc => hF ⟨c, hc⟩) fun a => ⟨fun ha => (hold a ha).1, fun ha => ?_⟩
    exact (hE a ha).resolve_right fun h => hF ⟨_, h.2⟩

/-- A byte below address n in which C and S differ. -/
def changedBelow (s : State) (n a : Nat) : Prop := a < n ∧ Memory.read s.canvas a ≠ Memory.read s.shadow a

/-- State t stands after the first n scan steps of the SYNC that state s begins. -/
structure ScanProgress (s t : State) (n : Nat) : Prop where
  running : inSync t
  canvas : t.canvas = s.canvas
  bus : t.bus = s.bus
  bbox : t.bbox = s.bbox
  phase : t.seq.phase = .scan
  page : t.seq.scanPage = n
  shadow : ∀ a, Memory.read t.shadow a = if a < n * 128 then Memory.read s.canvas a else Memory.read s.shadow a
  box : smallestBox t.seq (changedBelow s (n * 128))

theorem scanProgress_start {s : State} (h : inSync s) (hp : s.seq.phase = .scan) (hpage : s.seq.scanPage = 0)
    (hf : s.seq.found = false) : ScanProgress s s 0 where
  running := h
  canvas := rfl
  bus := rfl
  bbox := rfl
  phase := hp
  page := hpage
  shadow a := by simp
  box := ⟨fun _ a ha => by simp [changedBelow] at ha, fun hyes => absurd (hf.symm.trans hyes) (by decide)⟩

/-- On page n, which is still to be scanned, S holds what it held when the SYNC began. -/
theorem ScanProgress.differsAt_iff {s t : State} {n : Nat} (h : ScanProgress s t n) (c : Nat) :
    differsAt t.canvas t.shadow n c ↔
      c < 128 ∧ Memory.read s.canvas (c + n * 128) ≠ Memory.read s.shadow (c + n * 128) := by
  rw [differsAt, h.canvas, h.shadow, if_neg (by omega)]

/-- A further page scanned is one step further. -/
theorem ScanProgress.next_page {s t : State} {n : Nat} (h : ScanProgress s t n) : ScanProgress s (scanned t) (n + 1) where
  running := h.running
  canvas := h.canvas
  bus := h.bus
  bbox := h.bbox
  phase := (scanned_phase t).trans h.phase
  page := congrArg (· + 1) h.page
  shadow a := by
    rw [read_scanned_shadow, h.page, h.canvas, h.shadow]
    by_cases ha : a / 128 = n
    · rw [if_pos ha, if_pos (by omega)]
    · rw [if_neg ha]
      exact if_congr (by omega) rfl rfl
  box := by
    have hgrow := boxGrows_scanned t
    rw [h.page] at hgrow
    refine smallestBox_of_boxGrows h.box hgrow (fun a ⟨hlt, hne⟩ => ⟨⟨by omega, hne⟩, by omega⟩) (fun c hc => ?_)
      fun a ⟨hlt, hne⟩ => ?_
    · obtain ⟨hlt, hne⟩ := (h.differsAt_iff c).mp hc
      exact ⟨c + n * 128, ⟨by omega, hne⟩, by omega, by omega⟩
    · by_cases hold : a < n * 128
      · exact .inl ⟨hold, hne⟩
      · have ha : a % 128 + n * 128 = a := by omega
        exact .inr ⟨by omega, (h.differsAt_iff _).mpr ⟨by omega, ha.symm ▸ hne⟩⟩

theorem ScanProgress.step_eq {s t : State} {n : Nat} (h : ScanProgress s t n) : step t = .next (scanStep t) :=
  (step_inSync h.running).trans (exec_sync_scan h.phase)

/-- A SYNC that has scanned n pages ends its scan in m + 1 steps, if those are the pages left. -/
theorem ScanProgress.run_to_scanEnd {s t : State} {n m : Nat} (h : ScanProgress s t n) (hm : n + m = 7) :
    ∃ u, run (m + 1) t = .next (scanEnd u) ∧ ScanProgress s u 8 := by
  induction m generalizing t n with
  | zero =>
    obtain rfl : n = 7 := hm
    have hlast : t.seq.scanPage + 1 = 8 := congrArg (· + 1) h.page
    exact ⟨_, run_succ (scanStep_of_last hlast ▸ h.step_eq) 0, h.next_page⟩
  | succ m ih =>
    have hpage := h.page
    have hmore : t.seq.scanPage + 1 ≠ 8 := by omega
    rw [run_succ (scanStep_of_not_last hmore ▸ h.step_eq)]
    exact ih h.next_page (by omega)

/-- Settles O41: after the eighth page the running box is the smallest box of what changed, and the end of the scan
reports it, or nothing if nothing was found. -/
theorem scanFindsTheSmallestBox : Obligations.ScanFindsTheSmallestBox := by
  intro s ht hb hf hc hp hpage hfound
  obtain ⟨u, hrun, h⟩ := (scanProgress_start ⟨ht, hb, hf, hc⟩ hp hpage hfound).run_to_scanEnd (m := 7) rfl
  have hcopied (a : Nat) (ha : a < 1024) : Memory.read u.shadow a = Memory.read s.canvas a := by
    rw [h.shadow, if_pos (by omega)]
  obtain ⟨hnone, hbox⟩ := h.box
  rcases scanEnd_cases u with ⟨hno, he⟩ | ⟨hyes, he⟩ <;> rw [he] at hrun
  · refine ⟨_, hrun, h.canvas, h.bus, hcopied, fun _ => ⟨rfl, rfl, rfl, h.bbox⟩, fun ⟨a, ha, hne⟩ => ?_⟩
    exact absurd ⟨ha, hne⟩ (hnone hno a)
  · obtain ⟨hin, ⟨i, ⟨hi, hid⟩, hmin⟩, ⟨j, ⟨hj, hjd⟩, hmax⟩, ⟨k, ⟨hk, hkd⟩, hminp⟩, ⟨l, ⟨hl, hld⟩, hmaxp⟩⟩ := hbox hyes
    obtain ⟨-, hbusy, -⟩ := h.running
    have hmaxCol : u.seq.maxCol < 128 := by omega
    have hmaxPage : u.seq.maxPage < 8 := by omega
    refine ⟨_, hrun, h.canvas, h.bus, hcopied, fun hsame => absurd (hsame i hi) hid, fun _ => ?_⟩
    exact ⟨hbusy, rfl, rfl, rfl, rfl, hmaxCol, hmaxPage, fun a ha hne => hin a ⟨ha, hne⟩, ⟨i, hi, hid, hmin⟩,
      ⟨j, hj, hjd, hmax⟩, ⟨k, hk, hkd, hminp⟩, l, hl, hld, hmaxp⟩

/-- Settles O42: the SYNC that is accepted begins a scan, which finds nothing. -/
theorem syncOfUnchangedCanvasIsSilent : Obligations.SyncOfUnchangedCanvasIsSilent := by
  intro s ht hd hr hf hb hsame
  have hscan := scanFindsTheSmallestBox (accept .sync s)
  rw [regWrite_sync hf hb hr]
  rw [accept_sync_buffered hd] at hscan ⊢
  obtain ⟨t, hrun, hcanvas, hbus, hshadow, hsilent, -⟩ := hscan ht rfl hf rfl rfl rfl rfl
  obtain ⟨hbusy, hidle, hvalid, hbox⟩ := hsilent fun a ha => (hsame a ha).symm
  exact ⟨t, hrun, hbusy, hidle, hvalid, hbox, hbus, hcanvas, fun a ha => (hshadow a ha).trans (hsame a ha).symm⟩

end Sys2Proof.Machine
end

section
/-!
SUPPORT. The transmission of SYNC (spec/43_sync.md R165 to R168): its bus events as packets, its steps to the last page
of the box, and its cost.
-/

namespace Sys2Proof.Machine

/-- Settles O43. -/
theorem displayRegisterWriteEvents : Obligations.DisplayRegisterWriteEvents :=
  ⟨fun _ _ _ _ => rfl, fun _ _ => ⟨rfl, rfl⟩⟩

/-! ### Packets -/

/-- The events of the payload so far, the open packet flushed (R166). -/
def flushed (acc : Nat × List BusEvent) : List BusEvent := if acc.1 = 0 then acc.2 else acc.2 ++ [.finish]

theorem txPayload_eq_flushed (g : Config) (bytes : List Byte) :
    txPayload g bytes = flushed (bytes.foldl (txByte g) (0, [])) := rfl

/-- A row is whole packets of sixteen bytes and then fewer than sixteen. -/
theorem packets_induction {P : List Byte → Prop} (short : ∀ l : List Byte, l.length < 16 → P l)
    (full : ∀ l rest : List Byte, l.length = 16 → P rest → P (l ++ rest)) (l : List Byte) : P l := by
  induction hn : l.length using Nat.strong_induction_on generalizing l with
  | h n ih =>
    subst hn
    by_cases hlt : l.length < 16
    · exact short l hlt
    · rw [← List.take_append_drop 16 l]
      refine full _ _ (by rw [List.length_take]; omega) (ih _ ?_ _ rfl)
      rw [List.length_drop]
      omega

theorem packetize_nil (g : Config) : packetize g [] = [] := rfl

theorem packetize_short (g : Config) {l : List Byte} (h0 : l ≠ []) (h16 : l.length < 16) :
    packetize g l = packet g l := by
  have hpos := List.length_pos_of_ne_nil h0
  have hone : (l.length + 15) / 16 = 1 := by omega
  rw [packetize, hone]
  simp [List.take_of_length_le h16.le]

theorem packetize_append (g : Config) {l : List Byte} (h : l.length = 16) (rest : List Byte) :
    packetize g (l ++ rest) = packet g l ++ packetize g rest := by
  have hcount : ((l ++ rest).length + 15) / 16 = (rest.length + 15) / 16 + 1 := by
    rw [List.length_append]
    omega
  have hdrop (j : Nat) : (l ++ rest).drop (16 * (j + 1)) = rest.drop (16 * j) := by
    rw [show 16 * (j + 1) = l.length + 16 * j by omega, List.drop_length_add_append]
  have hfirst : ((l ++ rest).drop (16 * 0)).take 16 = l := List.take_left' h
  rw [packetize, hcount, List.range_succ_eq_map, List.flatMap_cons, List.flatMap_map, hfirst]
  simp only [hdrop, packetize]

/-- In an open packet with room for the bytes l, they follow one another, and the sixteenth byte closes the packet. -/
theorem foldl_txByte_open (g : Config) (l : List Byte) {k : Nat} (h0 : 0 < k) (h15 : k < 16) (hk : k + l.length ≤ 16)
    (es : List BusEvent) :
    l.foldl (txByte g) (k, es) =
      if k + l.length = 16 then (0, es ++ l.map .write ++ [.finish]) else (k + l.length, es ++ l.map .write) := by
  induction l generalizing k es with
  | nil => simp [h15.ne]
  | cons b l ih =>
    rw [List.length_cons] at hk
    by_cases hlast : k + 1 = 16
    · obtain rfl : l = [] := List.eq_nil_of_length_eq_zero (by omega)
      simp [txByte, hlast, h0.ne']
    · have hb : txByte g (k, es) b = (k + 1, es ++ [.write b]) := by simp [txByte, hlast, h0.ne']
      rw [List.foldl_cons, hb, ih (by omega) (by omega) (by omega)]
      simp [Nat.add_assoc, Nat.add_comm 1]

/-- A packet of at most sixteen bytes, begun with none open. -/
theorem foldl_txByte_packet (g : Config) {l : List Byte} (h0 : l ≠ []) (h16 : l.length ≤ 16) (es : List BusEvent) :
    l.foldl (txByte g) (0, es) =
      if l.length = 16 then (0, es ++ packet g l)
      else (l.length, es ++ [.begin g.displayAddr, .write g.dataModeMarker] ++ l.map .write) := by
  cases l with
  | nil => exact absurd rfl h0
  | cons b l =>
    have hb : txByte g (0, es) b = (1, es ++ [.begin g.displayAddr, .write g.dataModeMarker] ++ [.write b]) := rfl
    rw [List.length_cons] at h16
    rw [List.foldl_cons, hb, foldl_txByte_open g l (by decide) (by decide) (by omega)]
    simp [packet, Nat.add_comm 1]

/-- Byte by byte the payload comes out in packets. -/
theorem flushed_foldl_txByte (g : Config) (bytes : List Byte) (es : List BusEvent) :
    flushed (bytes.foldl (txByte g) (0, es)) = es ++ packetize g bytes := by
  induction bytes using packets_induction generalizing es with
  | short l h =>
    by_cases h0 : l = []
    · simp [h0, flushed, packetize_nil]
    · rw [foldl_txByte_packet g h0 h.le, if_neg h.ne, packetize_short g h0 h]
      simp [flushed, packet, h0]
  | full l rest h ih =>
    have h0 : l ≠ [] := List.ne_nil_of_length_pos (by omega)
    rw [List.foldl_append, foldl_txByte_packet g h0 h.le, if_pos h, ih, packetize_append g h, List.append_assoc]

theorem txPayload_eq_packetize (g : Config) (bytes : List Byte) : txPayload g bytes = packetize g bytes :=
  (txPayload_eq_flushed g bytes).trans (flushed_foldl_txByte g bytes [])

/-! ### The transmit step -/

/-- The payload of page p of the box (R166). -/
def pagePackets (s : State) (p : Nat) : List BusEvent :=
  packetize s.cfg (boxRow s.canvas p s.seq.minCol s.seq.maxCol)

/-- The state after a page of the box is sent, before the SYNC ends or goes on. -/
def pageSent (s : State) : State :=
  { s with seq := { s.seq with txPage := s.seq.txPage + 1 }, bus := s.bus ++ pagePackets s s.seq.txPage }

theorem txRow_eq (s : State) :
    txRow s = if s.seq.maxPage < s.seq.txPage + 1 then txEnd (pageSent s) else pageSent s := by
  rw [txRow, txPayload_eq_packetize]
  rfl

/-- Sending a page advances the sequencer, whether or not the SYNC ends. -/
theorem txRow_seq (s : State) : (txRow s).seq = { s.seq with txPage := s.seq.txPage + 1 } := by
  rw [txRow_eq]
  split <;> rfl

theorem txRow_bus (s : State) : (txRow s).bus = s.bus ++ pagePackets s s.seq.txPage := by
  rw [txRow_eq]
  split <;> rfl

/-- The SYNC ends after the last page of the box and not before (R167). -/
theorem txRow_ends (s : State) :
    if s.seq.maxPage < s.seq.txPage + 1 then (txRow s).busy = false ∧ (txRow s).syncState = .idle
    else (txRow s).busy = s.busy ∧ (txRow s).syncState = s.syncState := by
  rw [txRow_eq]
  split <;> exact ⟨rfl, rfl⟩

theorem txStep_of_setup {s : State} (hp : s.seq.phase = .setup) : txStep s = txRow (setup s) :=
  congrArg txRow (if_pos hp)

theorem txStep_of_tx {s : State} (hp : s.seq.phase = .tx) : txStep s = txRow s :=
  congrArg txRow (if_neg (by simp [hp]))

/-- Settles O44: a page goes out in both phases, in the setup phase after the setup. -/
theorem transmitStepSendsPackets : Obligations.TransmitStepSendsPackets := by
  intro s hp
  refine ⟨_, exec_sync_transmit hp, ?_⟩
  cases hph : s.seq.phase with
  | scan => exact absurd hph hp
  | setup =>
    refine ⟨?_, ?_, ?_, txStep_frame s⟩ <;> rw [txStep_of_setup hph]
    · exact txRow_bus (setup s)
    · exact txRow_seq (setup s)
    · exact txRow_ends (setup s)
  | tx =>
    refine ⟨?_, ?_, ?_, txStep_frame s⟩ <;> rw [txStep_of_tx hph]
    · exact (txRow_bus s).trans (by simp [pagePackets])
    · exact (txRow_seq s).trans (by simp [hph])
    · exact txRow_ends s

/-! ### A whole transmission -/

/-- The payload of n pages of the box from page p on. -/
def pagesPackets (s : State) (p n : Nat) : List BusEvent := (List.range n).flatMap (fun j => pagePackets s (p + j))

theorem pagesPackets_succ (s : State) (p n : Nat) :
    pagesPackets s p (n + 1) = pagePackets s p ++ pagesPackets s (p + 1) n := by
  simp [pagesPackets, List.range_succ_eq_map, List.flatMap_map, Nat.add_assoc, Nat.add_comm 1]

/-- State t stands at the end of a SYNC that sent es since state s. -/
structure SyncSent (s t : State) (es : List BusEvent) : Prop where
  busy : t.busy = false
  syncState : t.syncState = .idle
  bus : t.bus = s.bus ++ es
  canvas : t.canvas = s.canvas
  bbox : t.bbox = s.bbox
  bboxValid : t.bboxValid = s.bboxValid

theorem step_of_tx {s : State} (h : inSync s) (hp : s.seq.phase = .tx) : step s = .next (txRow s) := by
  rw [step_inSync h, exec_sync_transmit (by simp [hp]), txStep_of_tx hp]

/-- The rest of a transmission: one step for each page still to send, the last of which ends the SYNC. -/
theorem run_of_tx {s : State} {n : Nat} (h : inSync s) (hp : s.seq.phase = .tx)
    (hn : s.seq.txPage + n = s.seq.maxPage) :
    ∃ t, run (n + 1) s = .next t ∧ SyncSent s t (pagesPackets s s.seq.txPage (n + 1)) := by
  induction n generalizing s with
  | zero =>
    have hlast : txRow s = txEnd (pageSent s) := (txRow_eq s).trans (if_pos (by omega))
    refine ⟨txEnd (pageSent s), run_succ (hlast ▸ step_of_tx h hp) 0, rfl, rfl, ?_, rfl, rfl, rfl⟩
    rw [pagesPackets_succ]
    exact congrArg _ (List.append_nil _).symm
  | succ n ih =>
    have hmore : txRow s = pageSent s := (txRow_eq s).trans (if_neg (by omega))
    obtain ⟨t, hrun, ht⟩ := ih (s := pageSent s) h hp ((Nat.succ_add_eq_add_succ _ n).trans hn)
    rw [run_succ (hmore ▸ step_of_tx h hp)]
    refine ⟨t, hrun, ht.busy, ht.syncState, ht.bus.trans ?_, ht.canvas, ht.bbox, ht.bboxValid⟩
    rw [pagesPackets_succ s, ← List.append_assoc]
    rfl

/-- The first transmit step is the setup and then the step of its first page. -/
theorem step_setup {s : State} (h : inSync s) (hp : s.seq.phase = .setup) : step s = step (setup s) := by
  rw [step_of_tx (s := setup s) h rfl, step_inSync h, exec_sync_transmit (by simp [hp]), txStep_of_setup hp]

/-- A whole transmission: the setup, then one step for each page of the box. -/
theorem run_of_setup {s : State} {n : Nat} (h : inSync s) (hp : s.seq.phase = .setup)
    (hn : s.seq.minPage + n = s.seq.maxPage) :
    ∃ t, run (n + 1) s = .next t ∧ SyncSent s t (setupEvents s.cfg s.seq ++ pagesPackets s s.seq.minPage (n + 1)) := by
  obtain ⟨t, hrun, ht⟩ := run_of_tx (s := setup s) h rfl hn
  have hstart : run (n + 1) s = run (n + 1) (setup s) := by
    have hfirst := step_of_tx (s := setup s) h rfl
    rw [run_succ hfirst, run_succ ((step_setup h hp).trans hfirst)]
  exact ⟨t, hstart.trans hrun, ht.busy, ht.syncState, ht.bus.trans (List.append_assoc ..), ht.canvas, ht.bbox,
    ht.bboxValid⟩

/-- Settles O45: the acceptance sets the box to the whole canvas, and eight transmit steps send it. -/
theorem unbufferedSyncSendsTheFullCanvas : Obligations.UnbufferedSyncSendsTheFullCanvas := by
  intro s ht hd hr hf hb
  have hsent := run_of_setup (s := accept .sync s) (n := 7)
  rw [regWrite_sync hf hb hr]
  rw [accept_sync_unbuffered hd] at hsent ⊢
  obtain ⟨t, hrun, h⟩ := hsent ⟨ht, rfl, hf, rfl⟩ rfl rfl
  refine ⟨t, hrun, h.busy, h.syncState, h.bus.trans ?_, ?_, ?_, h.bboxValid, h.canvas⟩
  · simp [setupEvents, pagesPackets, pagePackets, boxRow]
  · rw [bboxColWord, h.bbox]
    change (0x7F#8 ++ 0x00#8 : BitVec 16) = 0x7F00
    decide
  · rw [bboxPageWord, h.bbox]
    change (0x07#8 ++ 0x00#8 : BitVec 16) = 0x0700
    decide

/-! ### The cost of a transmission -/

theorem busBegins_append (es fs : List BusEvent) : busBegins (es ++ fs) = busBegins es + busBegins fs :=
  List.countP_append

theorem busWrites_append (es fs : List BusEvent) : busWrites (es ++ fs) = busWrites es + busWrites fs :=
  List.countP_append

theorem busBegins_packet (g : Config) (l : List Byte) : busBegins (packet g l) = 1 := by
  simp [busBegins, packet]

theorem busWrites_packet (g : Config) (l : List Byte) : busWrites (packet g l) = 1 + l.length := by
  simp [busWrites, packet, List.countP_map, Function.comp_def, Nat.add_comm]

/-- A row of W bytes costs ceil(W/16) transactions, each with one write beside its payload. -/
theorem packetize_cost (g : Config) (bytes : List Byte) :
    busBegins (packetize g bytes) = (bytes.length + 15) / 16 ∧
      busWrites (packetize g bytes) = (bytes.length + 15) / 16 + bytes.length := by
  induction bytes using packets_induction with
  | short l h =>
    by_cases h0 : l = []
    · subst h0
      exact ⟨rfl, rfl⟩
    · have := List.length_pos_of_ne_nil h0
      rw [packetize_short g h0 h, busBegins_packet, busWrites_packet]
      omega
  | full l rest h ih =>
    rw [packetize_append g h, busBegins_append, busWrites_append, busBegins_packet, busWrites_packet,
      List.length_append]
    omega

/-- The pages of a box of W columns cost n times what one row does. -/
theorem pagesPackets_cost (s : State) {w : Nat} (hw : s.seq.maxCol + 1 - s.seq.minCol = w) (p n : Nat) :
    busBegins (pagesPackets s p n) = n * ((w + 15) / 16) ∧
      busWrites (pagesPackets s p n) = n * ((w + 15) / 16) + w * n := by
  induction n generalizing p with
  | zero => simp [pagesPackets, busBegins, busWrites]
  | succ n ih =>
    have hrow : (boxRow s.canvas p s.seq.minCol s.seq.maxCol).length = w := by simp [boxRow, hw]
    obtain ⟨hb, hwr⟩ := packetize_cost s.cfg (boxRow s.canvas p s.seq.minCol s.seq.maxCol)
    obtain ⟨ihb, ihw⟩ := ih (p + 1)
    rw [pagesPackets_succ, busBegins_append, busWrites_append, ihb, ihw, pagePackets, hb, hwr, hrow]
    constructor <;> ring

/-- Settles O46. -/
theorem transmissionCost : Obligations.TransmissionCost := by
  intro s ht hb hf hc hp _ hpages
  obtain ⟨n, hn⟩ := Nat.exists_eq_add_of_le hpages
  have hcount : s.seq.maxPage + 1 - s.seq.minPage = n + 1 := by omega
  obtain ⟨t, hrun, h⟩ := run_of_setup ⟨ht, hb, hf, hc⟩ hp hn.symm
  obtain ⟨-, hsetup⟩ := displayRegisterWriteEvents
  obtain ⟨hsb, hsw⟩ := hsetup s.cfg s.seq
  obtain ⟨hpb, hpw⟩ := pagesPackets_cost s rfl s.seq.minPage (n + 1)
  rw [hcount]
  refine ⟨t, hrun, h.busy, ?_, ?_⟩ <;> rw [h.bus]
  · rw [busBegins_append, busBegins_append, hsb, hpb]
  · rw [busWrites_append, busWrites_append, hsw, hpw, Nat.add_assoc 12]

end Sys2Proof.Machine
end

section
/-!
SUPPORT. Command issue, the fault latch and the debug port (spec/60_exceptions.md R202 to R206, R214): each check of
command issue, what a latched fault stops, and what still answers.
-/

namespace Sys2Proof.Machine

/-! ### Command issue -/

section
variable {s : State} (hf : s.fault = false)
include hf

/-- While FAULT = 0 a host write of CMD is command issue. -/
theorem hostMove_cmd (w : Word) : hostMove (.write 0x0 w) s = .next (issueCommand s w) :=
  congrArg _ (regWrite_cmd hf w)

theorem issueCommand_of_illegal (hb : s.busy = false) {w : Word} (hw : decode? w = none) :
    issueCommand s w = raiseFault .illegalOpcode s := by
  simp [issueCommand, hf, hb, hw]

theorem issueCommand_of_unready (hb : s.busy = false) {i : Instr} (hr : s.ready = false) (hn : i ≠ .nop)
    (hi : i ≠ .init) : issueCommand s (encode i) = raiseFault .notReady s := by
  have hrun : ¬ runsUnready i = true := by simp [runsUnready_iff, hn, hi]
  simp [issueCommand, hf, hb, hr, hrun]

end

/-- Acceptance latches the operands and sets BUSY, and of the commands SYNC alone has an acceptance action (R202). -/
theorem accept_eq (i : Instr) (s : State) :
    accept i s =
      if i = .sync then syncAccept { s with latched := ⟨s.arg, s.color⟩, busy := true, current := .sync }
      else { s with latched := ⟨s.arg, s.color⟩, busy := true, current := i } := by
  by_cases hs : i = .sync
  · subst hs
    rfl
  · rw [if_neg hs, accept_of_ne_sync hs]

/-- Settles O14. -/
theorem commandIssueChecksInOrder : Obligations.CommandIssueChecksInOrder := by
  refine fun s w => ⟨fun hf => congrArg _ (regWrite_of_fault hf _ w), fun hf hb => ?_, fun hf hb hw => ?_, ?_⟩
  · rw [hostMove_cmd hf, issueCommand_of_busy hf hb, raiseFault_busy hf hb]
  · rw [hostMove_cmd hf, issueCommand_of_illegal hf hb ((decode?_eq_none_iff w).mpr hw), raiseFault_idle hf hb]
  · rintro i hf hb rfl
    refine ⟨fun hr hn hi => ?_, fun hr => ?_⟩
    · rw [hostMove_cmd hf, issueCommand_of_unready hf hb hr hn hi, raiseFault_idle hf hb]
    · rw [← accept_eq]
      exact congrArg _ (regWrite_cmd_accepted (decode?_encode i) hf hb hr)

/-! ### The debug port -/

section
variable {s : State} (i : Fin 1024)

theorem hostMove_debugCanvas_of_ready (hr : s.ready = true) :
    hostMove (.debugCanvas i) s = .next (answer s (.canvasByte i (Memory.read s.canvas i.val))) :=
  if_pos hr

theorem hostMove_debugCanvas_of_unready (hr : s.ready = false) :
    hostMove (.debugCanvas i) s = .refused .debugReadNotReady :=
  if_neg (by simp [hr])

/-- With DOUBLE_BUFFER there is an S for the debug port to read, or to refuse to read by READY. -/
theorem hostMove_debugShadow_of_buffered (hd : s.cfg.doubleBuffer = true) :
    hostMove (.debugShadow i) s =
      if s.ready then .next (answer s (.shadowByte i (Memory.read s.shadow i.val))) else .refused .debugReadNotReady :=
  if_neg (by simp [hd])

theorem hostMove_debugShadow_of_ready (hd : s.cfg.doubleBuffer = true) (hr : s.ready = true) :
    hostMove (.debugShadow i) s = .next (answer s (.shadowByte i (Memory.read s.shadow i.val))) :=
  (hostMove_debugShadow_of_buffered i hd).trans (if_pos hr)

theorem hostMove_debugShadow_of_unready (hd : s.cfg.doubleBuffer = true) (hr : s.ready = false) :
    hostMove (.debugShadow i) s = .refused .debugReadNotReady :=
  (hostMove_debugShadow_of_buffered i hd).trans (if_neg (by simp [hr]))

end

/-- Settles O18. -/
theorem debugPortReadsWhenReady : Obligations.DebugPortReadsWhenReady := fun _ i =>
  ⟨hostMove_debugCanvas_of_ready i, hostMove_debugCanvas_of_unready i, hostMove_debugShadow_of_ready i,
    hostMove_debugShadow_of_unready i⟩

/-! ### Whose step it is -/

theorem unitTurn_of_enabled {s : State} (hb : s.busy = true) (hf : s.fault = false) :
    unitTurn s = exec s.current s :=
  if_pos (by simp [unitEnabled, hb, hf])

theorem unitTurn_of_disabled {s : State} (h : s.busy = false ∨ s.fault = true) : unitTurn s = .next s :=
  if_neg (by rcases h with h | h <;> simp [unitEnabled, h])

theorem step_of_no_turns {s : State} (ht : s.turns = []) : step s = unitTurn s := by
  rw [step, ht]

theorem step_of_unit {s : State} {rest : List Turn} (ht : s.turns = .unit :: rest) :
    step s = unitTurn (setTurns s rest) := by
  rw [step, ht]

theorem step_of_host {s : State} {m : HostMove} {rest : List Turn} (ht : s.turns = .host m :: rest) :
    step s = hostMove m (setTurns s rest) := by
  rw [step, ht]

/-- Settles O48. -/
theorem stepRunsTheAgentInTurn : Obligations.StepRunsTheAgentInTurn := fun s rest _ =>
  ⟨fun ht hb hf => (step_of_no_turns ht).trans (unitTurn_of_enabled hb hf),
    fun ht hb hf => (step_of_unit ht).trans (unitTurn_of_enabled (s := setTurns s rest) hb hf),
    fun ht h => (step_of_no_turns ht).trans (unitTurn_of_disabled h),
    fun ht h => (step_of_unit ht).trans (unitTurn_of_disabled (s := setTurns s rest) h),
    step_of_host⟩

/-! ### While FAULT = 1 -/

/-- While FAULT = 1 a host move other than reset reaches the replies, the coming turns and the source memory only: a
register write is ignored (R204), and no other move reaches the PBU. -/
theorem hostMove_of_fault {m : HostMove} {s t : State} (hf : s.fault = true) (hm : m ≠ .reset)
    (h : hostMove m s = .next t) : t = { s with turns := t.turns, replies := t.replies, src := t.src } := by
  cases m with
  | write off v =>
    have ht : hostMove (.write off v) s = .next s := congrArg _ (regWrite_of_fault hf off v)
    cases ht.symm.trans h
    rfl
  | reset => exact absurd rfl hm
  | read | debugCanvas | debugShadow | waitIdle | storeSource =>
    cases hostStep_of_hostMove h
    rfl

/-- Settles O16. -/
theorem faultFreezesTheUnit : Obligations.FaultFreezesTheUnit := by
  refine ⟨fun s t hf hstep hreset => ?_, fun s _ => ⟨fun _ => rfl, fun hr i =>
    ⟨hostMove_debugCanvas_of_ready i hr, fun hd => hostMove_debugShadow_of_ready i hd hr⟩⟩⟩
  rcases step_cases s with ⟨-, he⟩ | ⟨rest, -, he⟩ | ⟨m, rest, hts, he⟩
  · cases (he.trans (unitTurn_of_disabled (.inr hf))).symm.trans hstep
    rfl
  · cases (he.trans (unitTurn_of_disabled (s := setTurns s rest) (.inr hf))).symm.trans hstep
    rfl
  · have hm : m ≠ .reset := by
      rintro rfl
      exact hreset (by simp [hostMoves, hts])
    exact hostMove_of_fault (s := setTurns s rest) hf hm (he.symm.trans hstep)

end Sys2Proof.Machine
end

section
/-!
SUPPORT. Where a fault comes from (spec/60_exceptions.md R201, R203): a unit step raises SOURCE_RANGE alone, a host move
the other four causes, each under its condition.
-/

namespace Sys2Proof.Machine

/-! ### Faults of a unit step -/

/-- Command i is a blit whose source bytes are not all below SRC_SIZE (20_memory.md R79). -/
def sourceOutside (s : State) (i : Instr) : Prop :=
  (i = .blit ∧ s.latched.u16 7 ≠ 0 ∧
    (s.cfg.srcSize : Int) < s.latched.srcBase + s.latched.u16 6 + s.latched.u16 7) ∨
  (i = .blitrow ∧ (s.cfg.srcSize : Int) < s.latched.srcBase + ceil8 (s.latched.s16 2 * s.latched.s16 3))

theorem srcOK_eq_false_iff {base : Int} (h : 0 ≤ base) (size : Nat) (n : Int) :
    srcOK size base n = false ↔ n ≠ 0 ∧ (size : Int) < base + n := by
  rw [← Bool.not_eq_true, srcOK_iff h, not_or, not_le]

section
variable {s t : State} (hf : s.fault = false)
include hf

/-- Of the unit steps only a blit's can set FAULT. -/
theorem blit_of_unitStep_fault {i : Instr} (hx : UnitStep s i t) (ht : t.fault = true) : i = .blit ∨ i = .blitrow := by
  have same {u : State} (hu : u.fault = s.fault) (ht : u.fault = true) : i = .blit ∨ i = .blitrow := by
    simp [hu, hf] at ht
  cases hx with
  | sourceFault _ hi => exact hi
  | ends => exact same rfl ht
  | inits => exact same (by rw [init_frame]) ht
  | draws => exact same rfl ht
  | scans => exact same (by rw [scanStep_frame]) ht
  | transmits => exact same (by rw [txStep_frame]) ht

/-- A unit step that sets FAULT is a blit whose source bytes are not all there, and does nothing but raise
SOURCE_RANGE. -/
theorem exec_raises {i : Instr} (h : exec i s = .next t) (ht : t.fault = true) :
    t = raiseFault .sourceRange s ∧ sourceOutside s i := by
  rcases blit_of_unitStep_fault hf (unitStep_of_exec h) ht with rfl | rfl
  · rcases execBlit_cases s with he | ⟨hsrc, he⟩ | he <;> cases he.symm.trans h
    · simp [hf] at ht
    · rw [srcOK_eq_false_iff (Int.add_nonneg s.latched.srcBase_nonneg (s.latched.u16_nonneg 6))] at hsrc
      exact ⟨rfl, .inl ⟨rfl, hsrc⟩⟩
    · simp [hf] at ht
  · rcases execBlitrow_cases s with he | ⟨hsrc, he⟩ | he <;> cases he.symm.trans h
    · simp [hf] at ht
    · obtain ⟨-, hsrc⟩ := (srcOK_eq_false_iff s.latched.srcBase_nonneg _ _).mp hsrc
      exact ⟨rfl, .inr ⟨rfl, hsrc⟩⟩
    · simp [hf] at ht

theorem raiseFault_cause (c : Cause) : (raiseFault c s).cause = c := by simp [raiseFault_eq, hf]

/-- A unit's turn that sets FAULT records SOURCE_RANGE, for the command in progress. -/
theorem unitTurn_raises (h : unitTurn s = .next t) (ht : t.fault = true) :
    unitEnabled s = true ∧ t.cause = .sourceRange ∧ sourceOutside s s.current := by
  rcases unitTurn_cases s with ⟨hb, -, he⟩ | ⟨-, he⟩
  · obtain ⟨rfl, hsrc⟩ := exec_raises hf (he.symm.trans h) ht
    exact ⟨by simp [unitEnabled, hb, hf], raiseFault_cause hf _, hsrc⟩
  · cases he.symm.trans h
    simp [hf] at ht

end

/-- Settles O15: the four cases of the latch, and a command that faults does nothing but raise its fault. -/
theorem faultLatchRecordsFirstCause : Obligations.FaultLatchRecordsFirstCause := by
  refine ⟨fun c s => ⟨fun hf hb => raiseFault_idle hf hb c, fun hf hb => raiseFault_busy hf hb c,
    fun hf hb => ?_, fun hf hb => ?_⟩, fun i s t h hf ht => ?_⟩
  · rw [raiseFault_again hf, stopCommand, if_neg (by simp [hb])]
  · rw [raiseFault_again hf, stopCommand, if_pos hb]
  · obtain ⟨rfl, -⟩ := exec_raises hf h ht
    rw [raiseFault_frame]
    exact ⟨rfl, id⟩

/-! ### Faults of a host move -/

/-- A register write that raises a cause, with the condition of that cause on READY and BUSY (R201, R202). -/
inductive WriteFault (ready busy : Bool) : Cause → BitVec 4 → Word → Prop where
  | notReady (i : Instr) (hr : ready = false) (hn : i ≠ .nop) (hi : i ≠ .init) :
      WriteFault ready busy .notReady Reg.cmd.offset (encode i)
  | illegalOpcode (w : Word) (hw : decode? w = none) : WriteFault ready busy .illegalOpcode Reg.cmd.offset w
  | illegalColor (v : Word) (hv : v.extractLsb' 0 2 = 3) : WriteFault ready busy .illegalColor Reg.color.offset v
  | busyViolation (w : Word) (hb : busy = true) : WriteFault ready busy .busyViolation Reg.cmd.offset w

section
variable {s t : State} (hf : s.fault = false)
include hf

theorem issueCommand_raises {w : Word} (ht : (issueCommand s w).fault = true) :
    ∃ c, WriteFault s.ready s.busy c Reg.cmd.offset w ∧ issueCommand s w = raiseFault c s := by
  rcases issueCommand_cases s w with
    ⟨hf', -⟩ | ⟨-, hb, h⟩ | ⟨-, -, hw, h⟩ | ⟨i, -, -, rfl, hr, hi, h⟩ | ⟨i, -, -, -, -, h⟩
  · simp [hf] at hf'
  · exact ⟨_, .busyViolation w hb, h⟩
  · exact ⟨_, .illegalOpcode w hw, h⟩
  · have hn : ¬ (i = .nop ∨ i = .init) := by simp [← runsUnready_iff, hi]
    rw [not_or] at hn
    exact ⟨_, .notReady i hr hn.1 hn.2, h⟩
  · simp [h, hf] at ht

theorem regWrite_raises {off : BitVec 4} {v : Word} (ht : (regWrite s off v).fault = true) :
    ∃ c, WriteFault s.ready s.busy c off v ∧ regWrite s off v = raiseFault c s := by
  rcases regWrite_cases s off v with h | ⟨rfl, -, h⟩ | ⟨rfl, -, h⟩ | ⟨n, rfl, -, h⟩ <;> rw [h] at ht ⊢
  · simp [hf] at ht
  · exact issueCommand_raises hf ht
  · rcases colorWrite_cases s v with ⟨c, -, hc⟩ | ⟨hv, hc⟩
    · simp [hc, hf] at ht
    · exact ⟨_, .illegalColor v hv, hc⟩
  · simp [hf] at ht

/-- A host move that sets FAULT is a register write. -/
theorem write_of_hostStep_fault {m : HostMove} (hx : HostStep s m t) (ht : t.fault = true) :
    ∃ off v, m = .write off v := by
  cases hx with
  | ignored | faults | accepts | colors | args => exact ⟨_, _, rfl⟩
  | resets => cases ht
  | reads | readsCanvas | readsShadow | polls | stores => exact absurd (hf.symm.trans ht) (by decide)

/-- A host move that sets FAULT is a register write under the condition of the cause it records. -/
theorem hostMove_raises {m : HostMove} (h : hostMove m s = .next t) (ht : t.fault = true) :
    ∃ off v, m = .write off v ∧ WriteFault s.ready s.busy t.cause off v := by
  obtain ⟨off, v, rfl⟩ := write_of_hostStep_fault hf (hostStep_of_hostMove h) ht
  cases h
  obtain ⟨c, hw, hc⟩ := regWrite_raises hf ht
  rw [hc, raiseFault_cause hf]
  exact ⟨off, v, rfl, hw⟩

/-- A step that sets FAULT is a blit's unit step or a register write, under the condition of the cause it records. -/
theorem step_raises (h : step s = .next t) (ht : t.fault = true) :
    (∃ i, unitRuns s i ∧ t.cause = .sourceRange ∧ sourceOutside s i) ∨
    ∃ off v, hostMoves s (.write off v) ∧ WriteFault s.ready s.busy t.cause off v := by
  rcases step_cases s with ⟨hts, he⟩ | ⟨rest, hts, he⟩ | ⟨m, rest, hts, he⟩
  · obtain ⟨hen, hraised⟩ := unitTurn_raises hf (he.symm.trans h) ht
    exact .inl ⟨_, ⟨.inl hts, hen, rfl⟩, hraised⟩
  · obtain ⟨hen, hraised⟩ := unitTurn_raises (s := setTurns s rest) hf (he.symm.trans h) ht
    exact .inl ⟨_, ⟨.inr (by simp [hts]), hen, rfl⟩, hraised⟩
  · obtain ⟨off, v, rfl, hw⟩ := hostMove_raises (s := setTurns s rest) hf (he.symm.trans h) ht
    exact .inr ⟨off, v, by simp [hostMoves, hts], hw⟩

end

/-- Settles O17. -/
theorem eachCauseHasItsCondition : Obligations.EachCauseHasItsCondition := by
  intro s t hf hstep ht
  rcases step_raises hf hstep ht with ⟨i, hu, hc, hsrc⟩ | ⟨off, v, hm, hw⟩
  · refine .inr (.inr (.inr (.inr ⟨by rw [hc]; rfl, ?_⟩)))
    rcases hsrc with ⟨rfl, hsrc⟩ | ⟨rfl, hsrc⟩
    · exact .inl ⟨hu, hsrc⟩
    · exact .inr ⟨hu, hsrc⟩
  · generalize t.cause = c at hw
    cases hw with
    | notReady i hr hn hi => exact .inl ⟨rfl, hr, i, hn, hi, hm⟩
    | illegalOpcode _ hw => exact .inr (.inl ⟨rfl, v, (decode?_eq_none_iff v).mp hw, hm⟩)
    | illegalColor _ hv => exact .inr (.inr (.inl ⟨rfl, v, hv, hm⟩))
    | busyViolation _ hb => exact .inr (.inr (.inr (.inl ⟨rfl, hb, v, hm⟩)))

end Sys2Proof.Machine
end

section
/-!
SUPPORT. Steps come to their end (spec/60_exceptions.md R213, R215): every command has its unit step, each step adds whole
transactions to the bus, and sixteen unit steps end any command of a run.
-/

namespace Sys2Proof.Machine

/-- Settles O20. -/
theorem everyCommandCompletesItsStep : Obligations.EveryCommandCompletesItsStep := exec_completes

/-! ### Bus transactions -/

theorem busClosed_txRow {s : State} (h : busClosed s.bus) : busClosed (txRow s).bus := by
  have hrow := busClosed_append h
    (busClosed_txPayload s.cfg (boxRow s.canvas s.seq.txPage s.seq.minCol s.seq.maxCol))
  rcases txRow_cases s with ⟨-, he⟩ | ⟨-, he⟩ <;> rw [he] <;> exact hrow

/-- A transmit step sends whole transactions: those of the setup, if it is due, and those of one page. -/
theorem busClosed_txStep {s : State} (h : busClosed s.bus) : busClosed (txStep s).bus := by
  unfold txStep
  split
  · exact busClosed_txRow (busClosed_append h (busClosed_setupEvents s.cfg s.seq))
  · exact busClosed_txRow h

/-- Of the unit steps a transmit step alone reaches the bus. -/
theorem busClosed_unitStep {i : Instr} {s t : State} (hx : UnitStep s i t) (h : busClosed s.bus) : busClosed t.bus := by
  cases hx with
  | ends => exact h
  | inits => rw [init_frame]; exact h
  | draws => exact h
  | sourceFault => rw [raiseFault_frame]; exact h
  | scans => rw [scanStep_frame]; exact h
  | transmits => exact busClosed_txStep h

/-- No host move reaches the bus, and a reset keeps what was sent (70_reset_and_hazards.md R230). -/
theorem bus_of_hostStep {m : HostMove} {s t : State} (hx : HostStep s m t) : t.bus = s.bus := by
  cases hx with
  | faults => rw [raiseFault_frame]
  | accepts => rw [accept_frame]
  | ignored | colors | args | reads | readsCanvas | readsShadow | polls | stores | resets => rfl

/-- Settles O56. -/
theorem everyStepEndsItsTransactions : Obligations.EveryStepEndsItsTransactions := by
  intro s t h hstep
  obtain ⟨ts, rfl | ⟨i, -, hx⟩ | ⟨m, -, hx⟩⟩ := step_next hstep
  · exact h
  · exact busClosed_unitStep hx h
  · rw [bus_of_hostStep hx]
    exact h

/-! ### The end of a command -/

/-- With no host turn to come, a command of a run takes its unit step and is nearer to its end. -/
theorem unit_round {s : State} (h : State.Inv s) (ht : s.turns = []) (hb : s.busy = true) :
    ∃ t : State, step s = .next t ∧ State.Inv t ∧ t.turns = [] ∧ stepsLeft t < stepsLeft s := by
  obtain ⟨t, hexec⟩ := exec_completes s.current s
  have hstep : step s = .next t :=
    (step_of_no_turns ht).trans ((unitTurn_of_enabled hb (not_fault_of_busy h hb)).trans hexec)
  have hx := unitStep_of_exec hexec
  exact ⟨t, hstep, everyStepKeepsTheInvariant s t h hstep, (turns_of_unitStep hx).trans ht, stepsLeft_unitStep h hb hx⟩

/-- With no host turn to come, the command in progress ends within the steps it has left. -/
theorem command_ends {s : State} (h : State.Inv s) (ht : s.turns = []) :
    ∃ (k : Nat) (t : State), k ≤ stepsLeft s ∧ run k s = .next t ∧ t.busy = false := by
  induction hn : stepsLeft s using Nat.strong_induction_on generalizing s with
  | h n ih =>
    subst hn
    cases hb : s.busy with
    | false => exact ⟨0, s, Nat.zero_le _, rfl, hb⟩
    | true =>
      obtain ⟨t, hstep, hinv, hturns, hless⟩ := unit_round h ht hb
      obtain ⟨k, u, hk, hrun, hend⟩ := ih _ hless hinv hturns rfl
      exact ⟨k + 1, u, by omega, (run_succ hstep k).trans hrun, hend⟩

/-- Settles O57: no command of a run has more than sixteen steps left. -/
theorem everyCommandEndsWithinSixteenSteps : Obligations.EveryCommandEndsWithinSixteenSteps := by
  intro s h ht _
  obtain ⟨k, t, hk, hend⟩ := command_ends h ht
  exact ⟨k, t, hk.trans (stepsLeft_le h), hend⟩

end Sys2Proof.Machine
end

section
/-! SUPPORT. The reset input (spec/70_reset_and_hazards.md R230) gives the values of power-on. -/

namespace Sys2Proof.Machine

/-- The reset input differs from power-on in the surroundings alone, which the registers do not show; the debug port
gives no byte because READY is 0. -/
theorem resetValues_resetInput (s : State) : resetValues (resetInput s) := by
  obtain ⟨harg, hcolw, hcol, hready, hbusy, hfault, hinit, hbv, hsync, hcause, hbcol, hbpage, hstatus, -⟩ :=
    (resetGivesStatedValues s.cfg).1
  exact ⟨harg, hcolw, hcol, hready, hbusy, hfault, hinit, hbv, hsync, hcause, hbcol, hbpage, hstatus, fun _ => rfl,
    debugShadow_ne_next rfl⟩

/-- Settles O9. -/
theorem resetInputKeepsBusTrace : Obligations.ResetInputKeepsBusTrace :=
  ⟨(resetGivesStatedValues Config.default).1, fun s =>
    ⟨resetInput s, rfl, resetValues_resetInput s, rfl, bus_of_hostStep .resets⟩⟩

end Sys2Proof.Machine
end
